-- ==== Sys2Proof/Config.lean ====
section
/-! DEFINITION. What an instance fixes (spec/00_scope.md R7, the rows of kind "parameter"). The values the spec fixes
(polynomial, seed, delays, cap, opcodes) are not here: each stands beside the operation that uses it. -/

namespace Sys2Proof

/-- ROUND_TIES (R7, R130, D13): "half-to-even or half-away-from-zero". -/
inductive RoundTies where
  | halfToEven
  | halfAwayFromZero
deriving DecidableEq, Repr, Inhabited

/-- DEVICE_ADDRESS (R7, R39, D14): the parameter's default. The width of the address is not stated, so it is a `Nat`. -/
def Config.deviceAddress : Nat := 0x58

/-- SERIAL_ID_LEGACY (R7, R123, D10): the parameter's default. -/
def Config.serialIdLegacy : Bool := false

/-- ROUND_TIES has no default (R7 "open"): a free value without a body, so that nothing can be proved of it
(log entry 5). The instance's own setting is the field `State.roundTies`, which a test may set to either value. -/
opaque Config.roundTies : RoundTies

end Sys2Proof
end

