-- ==== Sys2Proof/Word.lean ====
section
/-! DEFINITION. The two value types of the block (spec/00_scope.md R7, R8): a Word is 16 bits, a Byte 8 bits, both
unsigned. The byte order, the splitting and the assembly of a word are in `Sys2Proof/Machine/Operands.lean`. -/

namespace Sys2Proof

/-- `u16`: "a 16-bit unsigned value" (R7 WORD_BITS, R110). -/
abbrev Word := BitVec 16

/-- `u8`: the unit of both buffers and of the accumulator (R7 BYTE_BITS, R31). -/
abbrev Byte := BitVec 8

end Sys2Proof
end

