-- ==== Sys2Proof/Syntax.lean ====
section
/-! DEFINITION. What can be asked of the hardware, as data: the eight commands of the opcode table (`Instr`), and the
operations and requests a host issues (spec/10_state.md R10, spec/30_encoding.md R50, R60, R61). -/

namespace Sys2Proof

/-- The closed enumeration of command kinds (R91), in the order of the selector column of R55. -/
inductive Command where
  | initAirQuality
  | measureAirQuality
  | getBaseline
  | setBaseline
  | setHumidity
  | getFeatureSetVersion
  | measureRawSignals
  | getSerialId
deriving DecidableEq, Repr

/-- A Command Descriptor (R11): "immutable tuple" of four fields. ENCODE accepts any value of it (R112). -/
structure Descriptor where
  name           : String
  opcode         : Word
  parameterCount : Nat
  responseCount  : Nat
deriving DecidableEq, Repr

/-- The instructions of this hardware: one constructor per row of spec/opcode_table.json (R50, R55). Each carries the
"ordered sequence of Words" of `execute(command_name, parameters)` (R60); a sequence of the wrong length is an operand a
caller can supply, and ENCODE answers it with ParameterCountMismatch (R101). -/
inductive Instr where
  | initAirQuality       (parameters : List Word)
  | measureAirQuality    (parameters : List Word)
  | getBaseline          (parameters : List Word)
  | setBaseline          (parameters : List Word)
  | setHumidity          (parameters : List Word)
  | getFeatureSetVersion (parameters : List Word)
  | measureRawSignals    (parameters : List Word)
  | getSerialId          (parameters : List Word)
deriving DecidableEq, Repr

/-- The command an instruction issues. -/
def Instr.command : Instr → Command
  | .initAirQuality _ => .initAirQuality
  | .measureAirQuality _ => .measureAirQuality
  | .getBaseline _ => .getBaseline
  | .setBaseline _ => .setBaseline
  | .setHumidity _ => .setHumidity
  | .getFeatureSetVersion _ => .getFeatureSetVersion
  | .measureRawSignals _ => .measureRawSignals
  | .getSerialId _ => .getSerialId

/-- The parameter words an instruction carries. -/
def Instr.parameters : Instr → List Word
  | .initAirQuality ps => ps
  | .measureAirQuality ps => ps
  | .getBaseline ps => ps
  | .setBaseline ps => ps
  | .setHumidity ps => ps
  | .getFeatureSetVersion ps => ps
  | .measureRawSignals ps => ps
  | .getSerialId ps => ps

/-- The instruction that issues a command with given parameter words. -/
def Command.instr : Command → List Word → Instr
  | .initAirQuality => .initAirQuality
  | .measureAirQuality => .measureAirQuality
  | .getBaseline => .getBaseline
  | .setBaseline => .setBaseline
  | .setHumidity => .setHumidity
  | .getFeatureSetVersion => .getFeatureSetVersion
  | .measureRawSignals => .measureRawSignals
  | .getSerialId => .getSerialId

/-- Why a byte sequence is not a command frame (R52, R56, R57). -/
inductive DecodeError where
  /-- Fewer than the two opcode bytes. -/
  | noOpcode
  /-- The opcode is none of the eight (R57: "have no meaning in this hardware"). -/
  | unknownOpcode (opcode : Word)
  /-- The bytes end inside parameter group `index`. -/
  | truncated (index : Nat)
  /-- The third byte of parameter group `index` is not the checksum of its word (R51, R52). -/
  | badChecksum (index : Nat)
  /-- Bytes follow the last group of the frame (R56: the length of a frame is `2 + 3 * parameter_count`). -/
  | trailingBytes (count : Nat)
deriving DecidableEq, Repr

/-- The float operand of `set_humidity` (R130): a finite value is the exact number `numerator / denominator`; every
finite float is one. A zero denominator is no number, like `nan`. -/
inductive Humidity where
  | finite (numerator : Int) (denominator : Nat)
  | posInfinity
  | negInfinity
  | nan
deriving DecidableEq, Repr

/-- What a host can read of the block (R24: W and NW, TXBUF and TXLEN, STATUS and the error record). P, NP, DESC, RC,
RXBUF, RXLEN and gi are not readable by the host and have no constructor. -/
inductive HostRegister where
  | status
  | errReceived
  | errExpected
  | errIndex
  | responseCount
  | responseWord (index : Nat)
  | txLength
  | txByte (offset : Nat)
deriving DecidableEq, Repr

/-- An operation a host issues by a call: the four operations of the block (R10), EXECUTE in its two spellings (R60, R91,
R121), the derived operations (R61), and what happens to the whole machine (host reads, construction, shutdown, reset). -/
inductive Operation where
  /-- CRC8 (R70). -/
  | crc8 (word : Word)
  /-- LOOKUP by name (R80). -/
  | lookupName (name : String)
  /-- LOOKUP by selector number (R80, R91). -/
  | lookupSelector (selector : Nat)
  /-- ENCODE (R100). -/
  | encode (descriptor : Descriptor) (parameters : List Word)
  /-- DECODE (R103). -/
  | decode (bytes : List Byte) (responseCount : Nat)
  /-- The host reads a register of the block (R24). -/
  | read (register : HostRegister)
  /-- EXECUTE by command name (R60, R121). -/
  | executeName (name : String) (parameters : List Word)
  /-- EXECUTE by selector number (R60, R121). -/
  | executeSelector (selector : Nat) (parameters : List Word)
  /-- `get_serial_id()` (R123). -/
  | getSerialId
  /-- `get_feature_set_version()` (R124). -/
  | getFeatureSetVersion
  /-- `start_measurement(progress_callback?)` (R126); the argument says whether a callback is supplied. -/
  | startMeasurement (callback : Bool)
  /-- `get_air_quality()` (R127). -/
  | getAirQuality
  /-- `get_baseline()` (R128). -/
  | getBaseline
  /-- `set_baseline(eco2, tvoc)` (R129). -/
  | setBaseline (eco2 tvoc : Word)
  /-- `set_humidity(humidity)` (R130). -/
  | setHumidity (humidity : Humidity)
  /-- Shutdown (R131, R183). -/
  | shutdown
  /-- Construction of the host sequencer (R19, R120, R182): whether the caller's transport was obtained, and the device
  address of the instance. -/
  | construct (handle : Bool) (address : Nat)
  /-- Reset of the block (R180, R181). -/
  | reset
deriving DecidableEq, Repr

/-- One entry of the program a host runs (spec/95_test_vectors.md section 6: "a sequence of operations a host issues").
A command of the opcode table may be given by its command frame, the only encoding the spec gives it (R50, R52; log
entry 7); everything else has no bit encoding and is a call. -/
inductive Request where
  | commandFrame (bytes : List Byte)
  | call (operation : Operation)
deriving DecidableEq, Repr

end Sys2Proof
end

