-- ==== Sys2Proof/Machine/Operands.lean ====
section
/-! DEFINITION. Operand assembly (spec/20_memory.md R32, spec/30_encoding.md R54) and the operand forms of the derived
operations: field extraction, combination and rounding (spec/43_controller.md R123, R124, R130). -/

namespace Sys2Proof

/-- `hi8(w) = w[15:8]` (R8, R54): the byte at the lower offset. -/
def hi8 (w : Word) : Byte := w.extractLsb' 8 8

/-- `lo8(w) = w[7:0]` (R8, R54): the byte at the higher offset. -/
def lo8 (w : Word) : Byte := w.extractLsb' 0 8

/-- `word = {b0, b1} = (b0 << 8) | b1`, `b0` the byte at the lower offset (R32, R54). -/
def assemble (b0 b1 : Byte) : Word := b0 ++ b1

/-- `product_type`: bits 15-12 of the feature-set word (R124). -/
def productType (w : Word) : BitVec 4 := w.extractLsb' 12 4

/-- `version`: the low byte of the feature-set word; bits 11:8 are in neither field (R124, D20). -/
def featureVersion (w : Word) : Byte := lo8 w

/-- The 48-bit identifier `hi<<32 | mid<<16 | lo`, a `u48` (R123). -/
def combineSerial (hi mid lo : Word) : BitVec 48 := hi ++ mid ++ lo

/-- Which word stands lowest in the identifier: the third, or under SERIAL_ID_LEGACY the first again (R123, C1, D10). -/
def serialId (legacy : Bool) (w0 w1 w2 : Word) : BitVec 48 :=
  if legacy then combineSerial w0 w1 w0 else combineSerial w0 w1 w2

/-- The integer nearest to `num / den`, for `den` not zero; a tie goes as ROUND_TIES says (R130, D13). `num / den` and
`num % den` are the floor and the non-negative rest. -/
def roundToNearest (ties : RoundTies) (num : Int) (den : Nat) : Int :=
  let q := num / (den : Int)
  let r := num % (den : Int)
  if 2 * r < den then q
  else if (den : Int) < 2 * r then q + 1
  else match ties with
    | .halfToEven => if q % 2 = 0 then q else q + 1
    | .halfAwayFromZero => if 0 ≤ num then q + 1 else q

/-- The humidity word, or nothing where the operand is not a number or rounds outside 0..65535: "it is not a Word"
(R130, D13, D17). -/
def Humidity.toWord? (ties : RoundTies) : Humidity → Option Word
  | .finite num den =>
    if den = 0 then none
    else
      let h := roundToNearest ties num den
      if 0 ≤ h ∧ h ≤ 65535 then some (BitVec.ofInt 16 h) else none
  | .posInfinity => none
  | .negInfinity => none
  | .nan => none

end Sys2Proof
end

