-- ==== Sys2Proof/Machine/Checksum.lean ====
section
/-! DEFINITION. The Checksum Engine as a function (spec/40_checksum.md R70 to R73) and the word group it closes
(spec/30_encoding.md R51). The operation CRC8, which also writes ACC and STATUS, is in `Sys2Proof/Machine/Codec.lean`. -/

namespace Sys2Proof

/-- CRC_POLY (R7, R72, R73). -/
def crcPoly : Byte := 0x31

/-- CRC_INIT, the seed (R7, R71, R73). -/
def crcInit : Byte := 0xFF

/-- One iteration (R72). The test is on bit 7 before the shift; the bit shifted out is dropped. -/
def crcStep (a : Byte) : Byte :=
  if a.getLsbD 7 then (a <<< 1) ^^^ crcPoly else a <<< 1

/-- `ki` iterations (R71); the counter is the transient `ki` of R15. -/
def crcSteps : Nat → Byte → Byte
  | 0, a => a
  | ki + 1, a => crcSteps ki (crcStep a)

/-- One byte of a computation: the byte is XORed in whole, then eight iterations (R71). -/
def crcByte (acc b : Byte) : Byte := crcSteps 8 (acc ^^^ b)

/-- A computation over a byte sequence, first byte first. -/
def crcBytes : Byte → List Byte → Byte
  | acc, [] => acc
  | acc, b :: bs => crcBytes (crcByte acc b) bs

/-- `checksum(w)`: seeded anew, the two bytes most significant first, no reflection, no final XOR (R71, R73). -/
def checksum (w : Word) : Byte := crcBytes crcInit [hi8 w, lo8 w]

/-- Format G (R51): the word big-endian, then its checksum. -/
def groupBytes (w : Word) : List Byte := [hi8 w, lo8 w, checksum w]

/-- `groups(ws)` (R107): the groups of the words, in order. -/
def groups : List Word → List Byte
  | [] => []
  | w :: ws => groupBytes w ++ groups ws

/-- Format C (R52): the opcode big-endian with no checksum of its own, then one group per parameter. -/
def commandFrame (opcode : Word) (ps : List Word) : List Byte :=
  hi8 opcode :: lo8 opcode :: groups ps

end Sys2Proof
end

