-- ==== Sys2Proof/Machine/State.lean ====
section
/-! DEFINITION. The machine's state as plain data (spec/10_state.md R10 to R24, spec/20_memory.md R30, R31), the reasons
a step stops, and the state after reset (R22, R180). -/

namespace Sys2Proof.Machine

/-- A byte buffer: (offset, byte) pairs with offsets strictly rising. An unlisted offset has no value (R22, R157
"unspecified and unreadable"), so reading one is a fault (log entry 9). -/
abbrev Memory := List Host.Cell

/-- The values of STATUS (R18, R150). -/
inductive Status where
  | success
  | unknownCommand
  | parameterCountMismatch
  | checksumMismatch
  | malformedResponse
  | busError
deriving DecidableEq, Repr

/-- The numeric codes 0..5 (R150, D5). -/
def Status.code : Status → Nat
  | .success => 0
  | .unknownCommand => 1
  | .parameterCountMismatch => 2
  | .checksumMismatch => 3
  | .malformedResponse => 4
  | .busError => 5

/-- The error kinds the block raises, with the information R150 records. -/
inductive BlockError where
  /-- LOOKUP (R151). -/
  | unknownCommand
  /-- ENCODE (R152). -/
  | parameterCountMismatch
  /-- DECODE (R153). -/
  | checksumMismatch (received expected : Byte) (index : Nat)
  /-- DECODE (R154). -/
  | malformedResponse
deriving DecidableEq, Repr

/-- The transport's own error, "opaque passthrough": an uninterpreted value (R155, U5). -/
structure TransportError where
  payload : Nat
deriving DecidableEq, Repr

/-- The five error kinds (R150): four of the block, and BusError, which only the host sequencer raises (R155). -/
inductive Error where
  | block (e : BlockError)
  | busError (e : TransportError)
deriving DecidableEq, Repr

/-- The transport's answer to one `BusWrite` (R36). -/
inductive WriteAnswer where
  | ok
  | failed (e : TransportError)
deriving DecidableEq, Repr

/-- The transport's answer to one `BusRead`: a byte sequence of any length and content, or its error (R35, R37). -/
inductive ReadAnswer where
  | bytes (bs : List Byte)
  | failed (e : TransportError)
deriving DecidableEq, Repr

/-- Which bus exchange the host is inside. -/
inductive Exchange where
  | write
  | read
deriving DecidableEq, Repr

/-- What the host does to the world outside it, in order: the exchanges it starts (R36, R37), the delays it takes, in
milliseconds (R38), the progress callback (R126) and the release of the bus handle (R131). -/
inductive Event where
  | busWrite (address : Nat) (bytes : List Byte)
  | busRead (address length : Nat)
  | sleep (milliseconds : Nat)
  | callback
  | release
deriving DecidableEq, Repr

/-- What the last completed call handed back to its caller (R24, R157 (d), R192). -/
inductive Returned where
  /-- No result: no call has completed yet, or the last one was abandoned by a reset (R180). -/
  | nothing
  /-- A call that returns no value (D28). -/
  | unit
  | checksum (c : Byte)
  | descriptor (d : Descriptor)
  | frame (bs : List Byte)
  | words (ws : List Word)
  | serialId (id : BitVec 48)
  | featureSet (productType : BitVec 4) (version : Byte)
  | reading (eco2 tvoc : Word)
  | baseline (eco2 tvoc : Word)
  | register (value : Nat)
  | error (e : Error)
deriving DecidableEq, Repr

/-- The machine: the block's registers and buffers, the host sequencer's state, and its inputs and outputs. REGISTRY is
a constant (`Sys2Proof.registry`); `bi` and `ki` do not exist outside a computation (R22). -/
structure State where
  /-- P and NP: the parameter word file; NP is its length (R12). -/
  p : List Word
  /-- W and NW: the response word file; NW is its length (R13). -/
  w : List Word
  /-- The group index (R14). -/
  gi : Nat
  /-- The accumulator (R15). -/
  acc : Byte
  /-- The descriptor latch of ENCODE (R16). -/
  desc : Descriptor
  /-- The response count latch of DECODE (R16). -/
  rc : Nat
  /-- TXBUF (R17, R30). -/
  txbuf : Memory
  /-- TXLEN (R17). -/
  txlen : Nat
  /-- RXBUF (R17, R30). -/
  rxbuf : Memory
  /-- RXLEN (R17). -/
  rxlen : Nat
  /-- STATUS (R18). -/
  status : Status
  /-- ERR_RECEIVED (R18). -/
  errReceived : Byte
  /-- ERR_EXPECTED (R18). -/
  errExpected : Byte
  /-- ERR_INDEX (R18). -/
  errIndex : Nat
  /-- BUS: whether the host holds the transport's handle (R19). -/
  busHeld : Bool
  /-- BUS_RELEASED (R19). -/
  busReleased : Bool
  /-- ADDR (R19, R120). -/
  addr : Nat
  /-- `polls` of the warm-up loop (R19, R126). -/
  polls : Nat
  /-- The instance's SERIAL_ID_LEGACY (R7); no operation writes it. -/
  serialIdLegacy : Bool
  /-- The instance's ROUND_TIES (R7); no operation writes it. -/
  roundTies : RoundTies
  /-- Input: what the host has still to issue, first first (log entry 6). -/
  requests : List Request
  /-- Input: the transport's answers to the next write exchanges, first first (R35; log entry 10). -/
  writeAnswers : List WriteAnswer
  /-- Input: the transport's answers to the next read exchanges, first first (R35; log entry 10). -/
  readAnswers : List ReadAnswer
  /-- Input: whether the block is reset at each of the points to come at which a reset can fall, first first; none is once
  the list is exhausted (R180; log entry 19). -/
  resetLine : List Bool
  /-- The exchange that never returns, once the host is inside one (R186). -/
  stalled : Option Exchange
  /-- Output: what the host has done outside itself, oldest first (log entry 11). -/
  events : List Event
  /-- Output: what the last completed call returned (log entry 11). -/
  returned : Returned
deriving DecidableEq, Repr

/-- Faults of the model: reads the spec forbids. Both are safe, a stop where the spec gives no value; no operation of the
block raises one, only a host read does. -/
inductive Fault where
  /-- A buffer access beyond TXLEN or RXLEN, or a byte of a buffer that has no value. Raised by the buffer accesses of
  `Ops.lean` (R31: "a fault of the model, not a value"); a host read of TXBUF beyond TXLEN raises it. Safe. -/
  | outOfBounds (offset : Nat)
  /-- A read of `P[i]` for i >= NP or of `W[i]` for i >= NW. Raised by the register reads of `Ops.lean` (R13, R22, U3);
  a host read of W beyond NW raises it. Safe. -/
  | unspecifiedRead (index : Nat)
deriving DecidableEq, Repr

/-- Refusals: requests to which the spec gives no effect. -/
inductive Refusal where
  /-- An instruction that has no meaning yet, by its mnemonic in spec/opcode_table.json. Raised by arms of `exec`. Safe. -/
  | notModelled (mnemonic : String)
  /-- A byte sequence that is no command frame. Raised by the fetch of a request (R57, U10 `refuse`). Safe. -/
  | undecodable (why : DecodeError)
  /-- An `execute` after shutdown. Raised by `transact` (R131, D21, U12: "refused by the model (no meaning)"). Safe. -/
  | busReleased
  /-- An `execute` of a host that never obtained a transport. Raised by `transact` (R120: the transport is required; the
  spec gives no behaviour without one; log entry 20). Safe. -/
  | noTransport
  /-- A humidity that is not a number or rounds outside 0..65535. Raised by `set_humidity` (R130, D13, U4 `refuse`).
  Safe. -/
  | notAWord
  /-- Construction of a second controller while a handle is held. Raised by `construct` (R164: "one bus handle per
  instance"; N10: the spec does not say what a second one does; log entry 13). Safe. -/
  | handleHeld
deriving DecidableEq, Repr

/-- The state after reset (R22, R180, R182), with nothing yet to run, no answer of the transport yet given and no further
reset to come. The spec
states every value but those of ACC, DESC and RC, which it leaves unspecified and no operation reads (log entry 1), and
ROUND_TIES, which has no default (log entry 5). -/
def State.reset : State where
  p := []
  w := []
  gi := 0
  acc := 0
  desc := ⟨"", 0, 0, 0⟩
  rc := 0
  txbuf := []
  txlen := 0
  rxbuf := []
  rxlen := 0
  status := .success
  errReceived := 0
  errExpected := 0
  errIndex := 0
  busHeld := true
  busReleased := false
  addr := Config.deviceAddress
  polls := 0
  serialIdLegacy := Config.serialIdLegacy
  roundTies := Config.roundTies
  requests := []
  writeAnswers := []
  readAnswers := []
  resetLine := []
  stalled := none
  events := []
  returned := .nothing

end Sys2Proof.Machine
end

