-- ==== Sys2Proof/Machine/Flags.lean ====
section
/-! DEFINITION. STATUS and the error record, in place of flags (spec/10_state.md R18, spec/60_exceptions.md R150, R157).
Every operation of the block overwrites all four registers at its completion, so none of them is sticky. -/

namespace Sys2Proof.Machine

/-- The code of an error the block raises (R150). -/
def BlockError.status : BlockError → Status
  | .unknownCommand => .unknownCommand
  | .parameterCountMismatch => .parameterCountMismatch
  | .checksumMismatch _ _ _ => .checksumMismatch
  | .malformedResponse => .malformedResponse

/-- ERR_RECEIVED: the received checksum for code 3, else 0 (R18, R157 (c)). -/
def BlockError.received : BlockError → Byte
  | .checksumMismatch r _ _ => r
  | .unknownCommand => 0
  | .parameterCountMismatch => 0
  | .malformedResponse => 0

/-- ERR_EXPECTED: the recomputed checksum for code 3, else 0 (R18, R157 (c)). -/
def BlockError.expected : BlockError → Byte
  | .checksumMismatch _ e _ => e
  | .unknownCommand => 0
  | .parameterCountMismatch => 0
  | .malformedResponse => 0

/-- ERR_INDEX: the index of the failing group for code 3, else 0 (R18, R157 (c)). -/
def BlockError.index : BlockError → Nat
  | .checksumMismatch _ _ i => i
  | .unknownCommand => 0
  | .parameterCountMismatch => 0
  | .malformedResponse => 0

/-- The record of an operation that completed (R18: STATUS 0, error record 0). -/
def State.complete (s : State) : State :=
  { s with status := .success, errReceived := 0, errExpected := 0, errIndex := 0 }

/-- The record of an operation that raised `e` (R157 (c)). -/
def State.record (s : State) (e : BlockError) : State :=
  { s with status := e.status, errReceived := e.received, errExpected := e.expected, errIndex := e.index }

end Sys2Proof.Machine
end

