-- ==== Sys2Proof/Machine/Ops.lean ====
section
/-! DEFINITION. The named operations over registers and buffers (spec/00_scope.md R9, spec/20_memory.md R31, R32), how an
operation ends, and raising an error, which stands in place of taking an exception (spec/60_exceptions.md R157). There is
no handler and no return from one (R158): the next operation simply overwrites the record. -/

namespace Sys2Proof.Machine

/-! ## Buffers -/

/-- The canonical form: offsets strictly rising. An unlisted offset has no value, so no entry can be superfluous. -/
def Memory.wf : Memory → Bool
  | [] => true
  | [_] => true
  | x :: y :: m => decide (x.1 < y.1) && Memory.wf (y :: m)

/-- The byte at an offset, if it has a value. -/
def Memory.read : Memory → Nat → Option Byte
  | [], _ => none
  | (x, b) :: m, a => if x = a then some b else Memory.read m a

/-- One byte written; the canonical form is kept. -/
def Memory.write : Memory → Nat → Byte → Memory
  | [], a, b => [(a, b)]
  | (x, y) :: m, a, b =>
    if a < x then (a, b) :: (x, y) :: m
    else if a = x then (a, b) :: m
    else (x, y) :: Memory.write m a b

/-- A byte sequence laid out from an offset. -/
def Memory.ofBytesFrom : Nat → List Byte → Memory
  | _, [] => []
  | a, b :: bs => (a, b) :: Memory.ofBytesFrom (a + 1) bs

/-- A byte sequence as a whole buffer, offset 0 the first byte transmitted or received (R31). -/
def Memory.ofBytes (bs : List Byte) : Memory := Memory.ofBytesFrom 0 bs

/-- Byte `a` of RXBUF; `a + 1 <= RXLEN` is required (R31). -/
def State.rxByte (s : State) (a : Nat) : Except Fault Byte :=
  if a < s.rxlen then
    match s.rxbuf.read a with
    | some b => .ok b
    | none => .error (.outOfBounds a)
  else .error (.outOfBounds a)

/-- Byte `a` of TXBUF as the host reads it; `a + 1 <= TXLEN` is required (R30, R31). -/
def State.txByte (s : State) (a : Nat) : Except Fault Byte :=
  if a < s.txlen then
    match s.txbuf.read a with
    | some b => .ok b
    | none => .error (.outOfBounds a)
  else .error (.outOfBounds a)

/-- `MemRead(a, 1)` (R9). -/
def State.memRead1 (s : State) (a : Nat) : Except Fault Byte := s.rxByte a

/-- `MemRead(a, 2) = {RXBUF[a], RXBUF[a+1]}` (R9, R32). -/
def State.memRead2 (s : State) (a : Nat) : Except Fault Word :=
  match s.rxByte a with
  | .error f => .error f
  | .ok b0 =>
    match s.rxByte (a + 1) with
    | .error f => .error f
    | .ok b1 => .ok (assemble b0 b1)

/-- `MemWrite(a, 1, v)`; `a + 1 <= TXLEN` is required (R9, R31). -/
def State.memWrite1 (s : State) (a : Nat) (v : Byte) : Except Fault State :=
  if a < s.txlen then .ok { s with txbuf := s.txbuf.write a v } else .error (.outOfBounds a)

/-- `MemWrite(a, 2, v)`: `TXBUF[a] <- v[15:8]`, `TXBUF[a+1] <- v[7:0]` (R9, R31, R32). -/
def State.memWrite2 (s : State) (a : Nat) (v : Word) : Except Fault State :=
  match s.memWrite1 a (hi8 v) with
  | .error f => .error f
  | .ok s1 => s1.memWrite1 (a + 1) (lo8 v)

/-- The bytes `TXBUF[a : a+n]`. -/
def State.txSlice (s : State) : (n a : Nat) → Except Fault (List Byte)
  | 0, _ => .ok []
  | n + 1, a =>
    match s.txByte a with
    | .error f => .error f
    | .ok b =>
      match s.txSlice n (a + 1) with
      | .error f => .error f
      | .ok bs => .ok (b :: bs)

/-! ## Word registers -/

/-- NP (R12). -/
def State.np (s : State) : Nat := s.p.length

/-- NW (R13). -/
def State.nw (s : State) : Nat := s.w.length

/-- `P[i]`, for i < NP (R9, R12). -/
def State.readP (s : State) (i : Nat) : Except Fault Word :=
  match s.p[i]? with
  | some v => .ok v
  | none => .error (.unspecifiedRead i)

/-- `W[i]`, for i < NW (R9, R13). -/
def State.readW (s : State) (i : Nat) : Except Fault Word :=
  match s.w[i]? with
  | some v => .ok v
  | none => .error (.unspecifiedRead i)

/-- One checksum computation of the engine: ACC ends at the checksum returned (R15, R71). -/
def State.runChecksum (s : State) (w : Word) : State := { s with acc := checksum w }

/-! ## Named updates of the host's state -/

/-- `polls <- n` (R126). -/
def State.setPolls (s : State) (n : Nat) : State := { s with polls := n }

/-- What is left of the host's requests. -/
def State.setRequests (s : State) (rest : List Request) : State := { s with requests := rest }

/-- What is left of the transport's answers to writes. -/
def State.setWriteAnswers (s : State) (rest : List WriteAnswer) : State := { s with writeAnswers := rest }

/-- What is left of the transport's answers to reads. -/
def State.setReadAnswers (s : State) (rest : List ReadAnswer) : State := { s with readAnswers := rest }

/-- The host is inside an exchange that never returns (R186). -/
def State.stall (s : State) (x : Exchange) : State := { s with stalled := some x }

/-- An act of the host towards the outside. -/
def State.emit (s : State) (e : Event) : State := { s with events := s.events ++ [e] }

/-! ## Reset -/

/-- Reset of the block: every register takes its value of R22; nothing is sent on the bus and the handle is neither
released nor acquired (R180, R181). It is no call and returns nothing. -/
def resetBlock (s : State) : State :=
  { s with
    p := State.reset.p
    w := State.reset.w
    gi := State.reset.gi
    acc := State.reset.acc
    desc := State.reset.desc
    rc := State.reset.rc
    txbuf := State.reset.txbuf
    txlen := State.reset.txlen
    rxbuf := State.reset.rxbuf
    rxlen := State.reset.rxlen
    status := State.reset.status
    errReceived := State.reset.errReceived
    errExpected := State.reset.errExpected
    errIndex := State.reset.errIndex }

/-- `n` points at which a reset could have fallen are passed. -/
def State.pass (s : State) (n : Nat) : State := { s with resetLine := s.resetLine.drop n }

/-- Whether a reset falls at the next point. -/
def State.resetFalls (s : State) : Bool := s.resetLine.head?.getD false

/-- A point at which the block has no operation in progress, while the host is inside an exchange or a delay, or does
nothing: a reset that falls here leaves the host where it is (R181). -/
def State.idlePoint (s : State) : State := if s.resetFalls then resetBlock (s.pass 1) else s.pass 1

/-! ## How an operation ends -/

/-- The end of an operation: it returned a value, raised an error that goes to the caller (R157 (d)), is inside a bus
exchange that never returns (R186), was abandoned by a reset (R180), or the model stops. -/
inductive Ran (α : Type) where
  | done (value : α) (s : State)
  | raised (e : Error) (s : State)
  | blocked (s : State)
  | abandoned (s : State)
  | fault (f : Fault)
  | refused (r : Refusal)

/-- What follows a step of the pseudocode: nothing after an error, "they propagate immediately to the caller" (R122), and
nothing after an operation that gave no result. -/
def Ran.bind {α β : Type} (x : Ran α) (k : α → State → Ran β) : Ran β :=
  match x with
  | .done v s => k v s
  | .raised e s => .raised e s
  | .blocked s => .blocked s
  | .abandoned s => .abandoned s
  | .fault f => .fault f
  | .refused r => .refused r

/-- What follows a register or buffer read. -/
def Ran.get {α β : Type} (x : Except Fault α) (k : α → Ran β) : Ran β :=
  match x with
  | .ok v => k v
  | .error f => .fault f

/-- Raising an error of the block (R157): the operation ends at once, with no result; STATUS and the error record take
its code and its information. -/
def Ran.raise {α : Type} (e : BlockError) (s : State) : Ran α := .raised (.block e) (s.record e)

/-- The result handed back to the caller (R157 (d), R192). -/
def State.giveBack (s : State) (r : Returned) : State := { s with returned := r }

/-- An operation of the block as the host issues it: a reset that falls inside it abandons it without a result, and the
block is as after reset, whatever the operation had done (R180; log entry 19). -/
def issue {α : Type} (op : State → Ran α) (s : State) : Ran α :=
  if s.resetFalls then .abandoned (resetBlock (s.pass 1)) else op (s.pass 1)

/-- A call as one step of the machine. A call inside an exchange that never returns hands nothing back (R186); an
abandoned one is over, without a result (R180). -/
def Ran.outcome {α : Type} (give : α → Returned) (x : Ran α) : Host.Outcome State Fault Refusal :=
  match x with
  | .done v s => .next (s.giveBack (give v))
  | .raised e s => .next (s.giveBack (.error e))
  | .blocked s => .next s
  | .abandoned s => .next (s.giveBack .nothing)
  | .fault f => .fault f
  | .refused r => .refused r

end Sys2Proof.Machine
end

