-- ==== Sys2Proof/Machine/Bus.lean ====
section
/-! DEFINITION. The host's primitives: bus exchanges and delays (spec/20_memory.md R34 to R38). What the transport answers
is an input of the machine, a list in State; where the list is empty the exchange never returns (R186; log entry 10). A
reset of the block may fall inside each of them and does not disturb it (R181; log entry 19). -/

namespace Sys2Proof.Machine

/-- `BusWrite(ADDR, bytes)` (R36). -/
def busWrite (bytes : List Byte) (s : State) : Ran Unit :=
  let s1 := (s.emit (.busWrite s.addr bytes)).idlePoint
  match s1.writeAnswers with
  | [] => .blocked (s1.stall .write)
  | .ok :: rest => .done () (s1.setWriteAnswers rest)
  | .failed e :: rest => .raised (.busError e) (s1.setWriteAnswers rest)

/-- `BusRead(ADDR, length)`: the bytes answered may be of any number and content (R35, R37). -/
def busRead (length : Nat) (s : State) : Ran (List Byte) :=
  let s1 := (s.emit (.busRead s.addr length)).idlePoint
  match s1.readAnswers with
  | [] => .blocked (s1.stall .read)
  | .bytes bs :: rest => .done bs (s1.setReadAnswers rest)
  | .failed e :: rest => .raised (.busError e) (s1.setReadAnswers rest)

/-- `Sleep(d)`, in milliseconds (R38). -/
def sleep (milliseconds : Nat) (s : State) : State := (s.emit (.sleep milliseconds)).idlePoint

/-- SETTLE_DELAY, 25 ms (R7, R42). -/
def settleDelay : Nat := 25

/-- POLL_DELAY, 1 s (R7). -/
def pollDelay : Nat := 1000

/-- The least time an act takes: a delay lasts at least its duration, nothing else has a stated bound (R38, R191). -/
def Event.leastDuration : Event → Nat
  | .sleep d => d
  | .busWrite _ _ => 0
  | .busRead _ _ => 0
  | .callback => 0
  | .release => 0

/-- The least time, in milliseconds, a sequence of acts takes (R191). -/
def leastElapsed : List Event → Nat
  | [] => 0
  | e :: es => e.leastDuration + leastElapsed es

end Sys2Proof.Machine
end

