-- ==== Sys2Proof/Machine/Registry.lean ====
section
/-! DEFINITION. The Command Registry as a constant (spec/10_state.md R11, spec/30_encoding.md R55, spec/41_registry.md
R81 to R92). No operation writes it and it is the same before and after every reset, so it is no field of State (log
entry 3). `measure_test` is not an entry (R90). -/

namespace Sys2Proof

/-- The descriptor of each command: the rows of R55, rules R82 to R89. -/
def Command.descriptor : Command → Descriptor
  | .initAirQuality => ⟨"init_air_quality", 0x2003, 0, 0⟩
  | .measureAirQuality => ⟨"measure_air_quality", 0x2008, 0, 2⟩
  | .getBaseline => ⟨"get_baseline", 0x2015, 0, 2⟩
  | .setBaseline => ⟨"set_baseline", 0x201E, 2, 0⟩
  | .setHumidity => ⟨"set_humidity", 0x2061, 1, 0⟩
  | .getFeatureSetVersion => ⟨"get_feature_set_version", 0x202F, 0, 1⟩
  | .measureRawSignals => ⟨"measure_raw_signals", 0x2050, 0, 2⟩
  | .getSerialId => ⟨"get_serial_id", 0x3682, 0, 3⟩

/-- The command selector 0..7 (R55, R91, D4). -/
def Command.selector : Command → Nat
  | .initAirQuality => 0
  | .measureAirQuality => 1
  | .getBaseline => 2
  | .setBaseline => 3
  | .setHumidity => 4
  | .getFeatureSetVersion => 5
  | .measureRawSignals => 6
  | .getSerialId => 7

/-- The eight commands in selector order. -/
def Command.all : List Command :=
  [.initAirQuality, .measureAirQuality, .getBaseline, .setBaseline, .setHumidity, .getFeatureSetVersion,
    .measureRawSignals, .getSerialId]

/-- `REGISTRY[0..7]` (R11). -/
def registry : List Descriptor := Command.all.map Command.descriptor

/-- The entry whose name equals `name` exactly, byte for byte (R80, D26). -/
def registryByName (name : String) : Option Descriptor := registry.find? fun d => d.name == name

/-- The entry at a selector number (R80). -/
def registryBySelector (selector : Nat) : Option Descriptor := registry[selector]?

/-- The command with a given opcode, if any: "the opcode alone identifies the command" (R55, R57). -/
def commandOfOpcode (opcode : Word) : Option Command :=
  Command.all.find? fun c => c.descriptor.opcode == opcode

end Sys2Proof
end

