-- ==== Sys2Proof/Machine/Codec.lean ====
section
/-! DEFINITION. The four operations of the block: CRC8 (spec/40_checksum.md R70), LOOKUP (spec/41_registry.md R80),
ENCODE and DECODE (spec/42_codec.md R100, R103). -/

namespace Sys2Proof.Machine

/-- CRC8 (R70): ACC, STATUS and the error record are written; it never fails. -/
def opCrc8 (w : Word) (s : State) : Ran Byte :=
  let s1 := (s.runChecksum w).complete
  .done s1.acc s1

/-- LOOKUP's end: the entry found, or UnknownCommand (R80, R151). Only STATUS and the error record are written. -/
def lookupResult (found : Option Descriptor) (s : State) : Ran Descriptor :=
  match found with
  | some d => .done d s.complete
  | none => .raise .unknownCommand s

/-- LOOKUP by name (R80). -/
def opLookupName (name : String) (s : State) : Ran Descriptor := lookupResult (registryByName name) s

/-- LOOKUP by selector number (R80, R91). -/
def opLookupSelector (selector : Nat) (s : State) : Ran Descriptor := lookupResult (registryBySelector selector) s

/-- The loop of ENCODE, `n` groups still to write (R100). -/
def encodeLoop : Nat → State → Except Fault State
  | 0, s => .ok s
  | n + 1, s =>
    match s.readP s.gi with
    | .error f => .error f
    | .ok v =>
      match s.memWrite2 (2 + 3 * s.gi) v with
      | .error f => .error f
      | .ok s1 =>
        let s2 := s1.runChecksum v
        match s2.memWrite1 (4 + 3 * s2.gi) s2.acc with
        | .error f => .error f
        | .ok s3 => encodeLoop n { s3 with gi := s3.gi + 1 }

/-- ENCODE (R100): the request writes DESC, P and NP (R16, R12); the count check comes first and leaves TXLEN = 0
(R101); then the opcode and the groups are written into TXBUF. `gi` is 0 from the start (R14; log entry 12). What TXBUF
held before has no value afterwards (D9). -/
def opEncode (d : Descriptor) (ps : List Word) (s : State) : Ran (List Byte) :=
  let s0 := { s with desc := d, p := ps, gi := 0, txbuf := [], txlen := 0 }
  if s0.np ≠ s0.desc.parameterCount then .raise .parameterCountMismatch s0
  else
    let s1 := { s0 with txlen := 2 + 3 * s0.np }
    .get (s1.memWrite2 0 s1.desc.opcode) fun s2 =>
      .get (encodeLoop s2.np s2) fun s3 =>
        .get (s3.txSlice s3.txlen 0) fun bs => .done bs s3.complete

/-- The loop of DECODE, `n` groups still to examine, the words verified so far in wire order (R103, R105). It stops at
the first group that fails. -/
def decodeLoop : Nat → List Word → State → Ran (List Word)
  | 0, ws, s => .done ws s
  | n + 1, ws, s =>
    .get (s.memRead2 (3 * s.gi)) fun word =>
      .get (s.memRead1 (3 * s.gi + 2)) fun received =>
        let s1 := s.runChecksum word
        if received ≠ s1.acc then .raise (.checksumMismatch received s1.acc s1.gi) s1
        else decodeLoop n (ws ++ [word]) { s1 with gi := s1.gi + 1 }

/-- DECODE (R103): the request writes RXBUF, RXLEN and RC (R16, R17); the length check comes first (R104); W and NW are
written only when every group has verified (R106). -/
def opDecode (bs : List Byte) (responseCount : Nat) (s : State) : Ran (List Word) :=
  let s0 := { s with rxbuf := Memory.ofBytes bs, rxlen := bs.length, rc := responseCount, w := [], gi := 0 }
  if s0.rxlen ≠ 3 * s0.rc then .raise .malformedResponse s0
  else (decodeLoop s0.rc [] s0).bind fun ws s1 => .done ws ({ s1 with w := ws }).complete

end Sys2Proof.Machine
end

