-- ==== Sys2Proof/Machine/Execute.lean ====
section
/-! DEFINITION. EXECUTE, one transaction (spec/43_controller.md R121, R122): lookup, encode, write exchange, settle delay,
then read exchange and decode if a response is expected. Any error ends it at once. -/

namespace Sys2Proof.Machine

/-- EXECUTE over any form of LOOKUP (R121). After shutdown it is refused (R131, D21), without a transport too (R120); a
host that is inside an exchange that never returns stays there (R186). A reset can fall inside each of the six steps, and
between LOOKUP and ENCODE, where it can be told from one inside either (R180). -/
def transact (lookup : State → Ran Descriptor) (ps : List Word) (s : State) : Ran (List Word) :=
  if s.stalled.isSome then .blocked s
  else if s.busReleased then .refused .busReleased
  else if !s.busHeld then .refused .noTransport
  else
    (issue lookup s).bind fun d s1 =>
      (issue (opEncode d ps) s1.idlePoint).bind fun frame s2 =>
        (busWrite frame s2).bind fun _ s3 =>
          let s4 := sleep settleDelay s3
          if d.responseCount = 0 then .done [] s4
          else (busRead (3 * d.responseCount) s4).bind fun bs s5 => issue (opDecode bs d.responseCount) s5

/-- EXECUTE of a command by its place in the closed enumeration (R60, R91). -/
def execute (c : Command) (ps : List Word) (s : State) : Ran (List Word) :=
  transact (opLookupSelector c.selector) ps s

end Sys2Proof.Machine
end

