-- ==== Sys2Proof/Machine/Baseline.lean ====
section
/-! DEFINITION. The commands get_baseline and set_baseline (spec/41_registry.md R84, R85) and the derived operations of
the same names (spec/43_controller.md R128, R129). -/

namespace Sys2Proof.Machine

/-- get_baseline, opcode 0x2015: no parameter, two response words (R84). -/
def execGetBaseline (ps : List Word) (s : State) : Host.Outcome State Fault Refusal :=
  (execute .getBaseline ps s).outcome .words

/-- set_baseline, opcode 0x201E: two parameters, no response; the framer does not reorder them (R85). -/
def execSetBaseline (ps : List Word) (s : State) : Host.Outcome State Fault Refusal :=
  (execute .setBaseline ps s).outcome .words

/-- `get_baseline()`: (eco2, tvoc) = (word 0, word 1) (R128, C4, D11). -/
def getBaseline (s : State) : Ran (Word × Word) :=
  (execute .getBaseline [] s).bind fun _ s1 =>
    .get (s1.readW 0) fun eco2 => .get (s1.readW 1) fun tvoc => .done (eco2, tvoc) s1

/-- `set_baseline(eco2, tvoc)`: tvoc first on the wire (R129, R190). -/
def setBaseline (eco2 tvoc : Word) (s : State) : Ran Unit :=
  (execute .setBaseline [tvoc, eco2] s).bind fun _ s1 => .done () s1

end Sys2Proof.Machine
end

