-- ==== Sys2Proof/Machine/Humidity.lean ====
section
/-! DEFINITION. The command set_humidity (spec/41_registry.md R86) and the derived operation of the same name
(spec/43_controller.md R130). -/

namespace Sys2Proof.Machine

/-- set_humidity, opcode 0x2061: one parameter, no response (R86). -/
def execSetHumidity (ps : List Word) (s : State) : Host.Outcome State Fault Refusal :=
  (execute .setHumidity ps s).outcome .words

/-- `set_humidity(humidity)`: rounded to the nearest Word by the instance's ROUND_TIES, no scaling; what is not a Word is
refused and no frame is produced (R130, D13). -/
def setHumidity (h : Humidity) (s : State) : Ran Unit :=
  match h.toWord? s.roundTies with
  | none => .refused .notAWord
  | some v => (execute .setHumidity [v] s).bind fun _ s1 => .done () s1

end Sys2Proof.Machine
end

