-- ==== Sys2Proof/Machine/Identity.lean ====
section
/-! DEFINITION. The commands get_feature_set_version and get_serial_id (spec/41_registry.md R87, R89) and the derived
operations of the same names (spec/43_controller.md R123, R124). -/

namespace Sys2Proof.Machine

/-- get_feature_set_version, opcode 0x202F: no parameter, one response word (R87). -/
def execGetFeatureSetVersion (ps : List Word) (s : State) : Host.Outcome State Fault Refusal :=
  (execute .getFeatureSetVersion ps s).outcome .words

/-- get_serial_id, opcode 0x3682: no parameter, three response words (R89). -/
def execGetSerialId (ps : List Word) (s : State) : Host.Outcome State Fault Refusal :=
  (execute .getSerialId ps s).outcome .words

/-- `get_feature_set_version()`: product_type and version of the one word (R124). -/
def getFeatureSetVersion (s : State) : Ran (BitVec 4 × Byte) :=
  (execute .getFeatureSetVersion [] s).bind fun _ s1 =>
    .get (s1.readW 0) fun v => .done (productType v, featureVersion v) s1

/-- `get_serial_id()`: the 48-bit identifier of the three words (R123). -/
def getSerialId (s : State) : Ran (BitVec 48) :=
  (execute .getSerialId [] s).bind fun _ s1 =>
    .get (s1.readW 0) fun w0 =>
      .get (s1.readW 1) fun w1 =>
        .get (s1.readW 2) fun w2 => .done (serialId s1.serialIdLegacy w0 w1 w2) s1

end Sys2Proof.Machine
end

