-- ==== Sys2Proof/Machine/Measurement.lean ====
section
/-! DEFINITION. The commands init_air_quality, measure_air_quality and measure_raw_signals (spec/41_registry.md R82, R83,
R88) and the derived operations over them: start_measurement and get_air_quality (spec/43_controller.md R126, R127). -/

namespace Sys2Proof.Machine

/-- init_air_quality, opcode 0x2003: no parameter, no response (R82). -/
def execInitAirQuality (ps : List Word) (s : State) : Host.Outcome State Fault Refusal :=
  (execute .initAirQuality ps s).outcome .words

/-- measure_air_quality, opcode 0x2008: no parameter, two response words (R83). -/
def execMeasureAirQuality (ps : List Word) (s : State) : Host.Outcome State Fault Refusal :=
  (execute .measureAirQuality ps s).outcome .words

/-- measure_raw_signals, opcode 0x2050: no parameter, two response words, uninterpreted (R88, R132). -/
def execMeasureRawSignals (ps : List Word) (s : State) : Host.Outcome State Fault Refusal :=
  (execute .measureRawSignals ps s).outcome .words

/-- `get_air_quality()`: (eco2, tvoc) = (word 0, word 1), unchanged, as a pair (R125, R127). -/
def getAirQuality (s : State) : Ran (Word × Word) :=
  (execute .measureAirQuality [] s).bind fun _ s1 =>
    .get (s1.readW 0) fun eco2 => .get (s1.readW 1) fun tvoc => .done (eco2, tvoc) s1

/-- WARMUP_CAP (R7, R126). -/
def warmupCap : Nat := 20

/-- The fixed warm-up output (eco2, tvoc) = (400, 0) (R7, R126). -/
def warmupReading : Word × Word := (400, 0)

/-- The progress callback, called with no arguments if one is supplied (R126), synchronously (R159). That it returns, raises
nothing, and issues no operation, read or shutdown of its own is the model's choice: the spec is silent (log entry 24). -/
def progress (callback : Bool) (s : State) : State := if callback then s.emit .callback else s

/-- The loop of start_measurement, at most `n` polls more (R126, D12): the cap test stands directly after the poll, so
neither a callback nor a delay follows the poll that ends the loop. -/
def warmupLoop (callback : Bool) : Nat → State → Ran Unit
  | 0, s => .done () s
  | n + 1, s =>
    (getAirQuality s).bind fun reading s1 =>
      let s2 := s1.setPolls (s1.polls + 1)
      if reading ≠ warmupReading then .done () s2
      else if s2.polls = warmupCap then .done () s2
      else warmupLoop callback n (sleep pollDelay (progress callback s2))

/-- `start_measurement(progress_callback?)` (R126). -/
def startMeasurement (callback : Bool) (s : State) : Ran Unit :=
  (execute .initAirQuality [] s).bind fun _ s1 => warmupLoop callback warmupCap (s1.setPolls 0)

end Sys2Proof.Machine
end

