-- ==== Sys2Proof/Machine/Dispatch.lean ====
section
/-! DEFINITION. One arm per command of the opcode table (spec/30_encoding.md R55). -/

namespace Sys2Proof.Machine

def exec (i : Instr) (s : State) : Host.Outcome State Fault Refusal :=
  match i with
  | .initAirQuality ps => Sys2Proof.Machine.execInitAirQuality ps s
  | .measureAirQuality ps => Sys2Proof.Machine.execMeasureAirQuality ps s
  | .getBaseline ps => Sys2Proof.Machine.execGetBaseline ps s
  | .setBaseline ps => Sys2Proof.Machine.execSetBaseline ps s
  | .setHumidity ps => Sys2Proof.Machine.execSetHumidity ps s
  | .getFeatureSetVersion ps => Sys2Proof.Machine.execGetFeatureSetVersion ps s
  | .measureRawSignals ps => Sys2Proof.Machine.execMeasureRawSignals ps s
  | .getSerialId ps => Sys2Proof.Machine.execGetSerialId ps s

end Sys2Proof.Machine
end

