-- ==== Sys2Proof/WellFormed.lean ====
section
/-! DEFINITION. Which instructions have an encoding: those that carry exactly their command's parameter count
(spec/30_encoding.md R52, R60: "whose length must equal the command's parameter_count"). Parameter words are Words by
their type, so every value of one is legal (spec/42_codec.md R110). -/

namespace Sys2Proof

/-- The length check of one instruction. -/
def Instr.wf (i : Instr) : Bool := i.parameters.length == i.command.descriptor.parameterCount

end Sys2Proof
end

