-- ==== Sys2Proof/Decode.lean ====
section
/-! DEFINITION. Reading a command frame back into an instruction, total on any bytes, and the encoder written from format
C (spec/30_encoding.md R50 to R57). This decoder is the receiver's side of R56; the deframer DECODE of the block, which
reads response frames, is `Sys2Proof.Machine.opDecode`. -/

namespace Sys2Proof

/-- `count` parameter groups (R52), the first of them number `index` of its frame; each third byte must be the checksum
of its word (R51). -/
def decodeGroups : (count index : Nat) → List Byte → Except DecodeError (List Word × List Byte)
  | 0, _, bs => .ok ([], bs)
  | n + 1, g, b0 :: b1 :: crc :: rest =>
    if crc = checksum (assemble b0 b1) then
      match decodeGroups n (g + 1) rest with
      | .ok (ws, left) => .ok (assemble b0 b1 :: ws, left)
      | .error e => .error e
    else .error (.badChecksum g)
  | _ + 1, g, _ => .error (.truncated g)

/-- One command frame at the front of a byte sequence, and the bytes left after it (R56): the opcode, then the parameter
count the registry gives it. -/
def decode : List Byte → Except DecodeError (Instr × List Byte)
  | b0 :: b1 :: rest =>
    match commandOfOpcode (assemble b0 b1) with
    | none => .error (.unknownOpcode (assemble b0 b1))
    | some c =>
      match decodeGroups c.descriptor.parameterCount 0 rest with
      | .ok (ps, left) => .ok (c.instr ps, left)
      | .error e => .error e
  | _ => .error .noOpcode

/-- A byte sequence that is exactly one command frame. -/
def decodeFrame (bs : List Byte) : Except DecodeError Instr :=
  match decode bs with
  | .ok (i, []) => .ok i
  | .ok (_, left) => .error (.trailingBytes left.length)
  | .error e => .error e

/-- The command frame of a well-formed instruction (R52). -/
def encode (i : Instr) : List Byte := commandFrame i.command.descriptor.opcode i.parameters

/-- 16-bit word `k` of a number whose bit 0 is the least significant bit of word 0. -/
def tableWord (nbits w k : Nat) : Word := BitVec.ofNat 16 ((w % 2 ^ nbits) / 2 ^ (16 * k))

/-- The bytes of an instruction given as spec/opcode_table.json numbers it: word 0 is the opcode, sent big-endian with no
checksum, the words after it are the operand words, each sent big-endian and "immediately followed by a 1-byte checksum"
(R51, R52; log entry 8). As many operand words are laid out as the opcode's command takes. -/
def tableBytes (nbits w : Nat) : List Byte :=
  let opcode := tableWord nbits w 0
  match commandOfOpcode opcode with
  | none => commandFrame opcode []
  | some c => commandFrame opcode ((List.range c.descriptor.parameterCount).map fun k => tableWord nbits w (k + 1))

/-- The instruction the decoder reads from the table's bits. -/
def decodeTableWord (nbits w : Nat) : Option Instr :=
  match decodeFrame (tableBytes nbits w) with
  | .ok i => some i
  | .error _ => none

end Sys2Proof
end

