-- ==== Sys2Proof/Machine/Controller.lean ====
section
/-! DEFINITION. The life of the machine: host reads (spec/10_state.md R24), construction and shutdown of the host sequencer
(spec/43_controller.md R120, R131, spec/70_reset_and_hazards.md R182, R183). -/

namespace Sys2Proof.Machine

/-- The value a host reads (R24). ERR_RECEIVED, ERR_EXPECTED and ERR_INDEX hold 0 when STATUS is not 3 (R18); `W[i]`
beyond NW and TXBUF beyond TXLEN must not be read (R13, R31). -/
def readHostRegister (s : State) : HostRegister → Except Fault Nat
  | .status => .ok s.status.code
  | .errReceived => .ok s.errReceived.toNat
  | .errExpected => .ok s.errExpected.toNat
  | .errIndex => .ok s.errIndex
  | .responseCount => .ok s.nw
  | .responseWord i =>
    match s.readW i with
    | .ok v => .ok v.toNat
    | .error f => .error f
  | .txLength => .ok s.txlen
  | .txByte a =>
    match s.txByte a with
    | .ok b => .ok b.toNat
    | .error f => .error f

/-- A host read changes nothing (R35). -/
def hostRead (r : HostRegister) (s : State) : Ran Nat := .get (readHostRegister s r) fun v => .done v s

/-- Shutdown: the handle is released if it is held and not yet released; else nothing happens. It raises no error
(R131) and does not touch the block (R183). -/
def shutdown (s : State) : Ran Unit :=
  if s.busHeld && !s.busReleased then .done () { s.emit .release with busHeld := false, busReleased := true }
  else .done () s

/-- Construction (R19, R120, R182): the caller's transport, if it was obtained, and the instance's address. That one which
obtained no transport ends like any other, with the same state but for the handle and with no error handed back, is the
model's choice: the spec says only that shutdown is safe after it (log entry 23). That a construction is accepted wherever no
handle is held, also after shutdown, and makes a host that can issue EXECUTE again is the model's choice too: the spec is
silent (N10; log entry 25). -/
def construct (handle : Bool) (address : Nat) (s : State) : Ran Unit :=
  if s.busHeld then .refused .handleHeld
  else .done () { s with busHeld := handle, busReleased := false, addr := address, polls := 0 }

end Sys2Proof.Machine
end

