-- ==== Sys2Proof/Machine/Requests.lean ====
section
/-! DEFINITION. Taking the next request of the host (in place of fetching an instruction: spec/10_state.md R14 "the block
fetches no instructions") and performing the operations that are calls (spec/92_eei_decisions.md D2, spec/30_encoding.md
R60, R61). -/

namespace Sys2Proof.Machine

/-- What the machine finds to do next. -/
inductive Fetched where
  /-- The host is inside an exchange that never returns and has no further step (R186, U2). -/
  | blocked
  /-- Nothing is left to issue; the block is idle (R180, R192). -/
  | idle
  /-- A command of the opcode table, read from its command frame. -/
  | instruction (i : Instr) (s : State)
  /-- A call. -/
  | operation (o : Operation) (s : State)
  /-- Bytes that are no command frame (R57). -/
  | undecodable (e : DecodeError)

/-- The next request, taken off the list: operations are issued one at a time, in order (R10, R41). -/
def fetch (s : State) : Fetched :=
  if s.stalled.isSome then .blocked
  else
    match s.requests with
    | [] => .idle
    | .commandFrame bs :: rest =>
      match decodeFrame bs with
      | .ok i => .instruction i (s.setRequests rest)
      | .error e => .undecodable e
    | .call o :: rest => .operation o (s.setRequests rest)

/-- One call, start to end. -/
def perform : Operation → State → Host.Outcome State Fault Refusal
  | .crc8 v, s => (issue (opCrc8 v) s).outcome .checksum
  | .lookupName name, s => (issue (opLookupName name) s).outcome .descriptor
  | .lookupSelector n, s => (issue (opLookupSelector n) s).outcome .descriptor
  | .encode d ps, s => (issue (opEncode d ps) s).outcome .frame
  | .decode bs n, s => (issue (opDecode bs n) s).outcome .words
  | .read r, s => (hostRead r s).outcome .register
  | .executeName name ps, s => (transact (opLookupName name) ps s).outcome .words
  | .executeSelector n ps, s => (transact (opLookupSelector n) ps s).outcome .words
  | .getSerialId, s => (getSerialId s).outcome .serialId
  | .getFeatureSetVersion, s => (getFeatureSetVersion s).outcome fun x => .featureSet x.1 x.2
  | .startMeasurement callback, s => (startMeasurement callback s).outcome fun _ => .unit
  | .getAirQuality, s => (getAirQuality s).outcome fun x => .reading x.1 x.2
  | .getBaseline, s => (getBaseline s).outcome fun x => .baseline x.1 x.2
  | .setBaseline eco2 tvoc, s => (setBaseline eco2 tvoc s).outcome fun _ => .unit
  | .setHumidity h, s => (setHumidity h s).outcome fun _ => .unit
  | .shutdown, s => (shutdown s).outcome fun _ => .unit
  | .construct handle address, s => (construct handle address s).outcome fun _ => .unit
  | .reset, s => .next (resetBlock s)

/-- A command frame put in front of everything the host has still to issue; a host that is stuck is not (log entry 8). -/
def State.withFrame (s : State) (bs : List Byte) : State :=
  { s with requests := .commandFrame bs :: s.requests, stalled := none }

end Sys2Proof.Machine
end

