-- ==== Sys2Proof/Machine/Step.lean ====
section
/-! DEFINITION. One step: the host's next request, start to end (spec/10_state.md R10: "An operation is atomic";
spec/20_memory.md R41: everything happens in program order and there is no second observer). -/

namespace Sys2Proof.Machine

/-- One step. An idle machine and a host inside an exchange that never returns stay as they are (R192, R186), but
for a reset of the block that may fall meanwhile (R180). -/
def step (s : State) : Host.Outcome State Fault Refusal :=
  match fetch s with
  | .blocked => .next s.idlePoint
  | .idle => .next s.idlePoint
  | .instruction i s1 => exec i s1
  | .operation o s1 => perform o s1
  | .undecodable e => .refused (.undecodable e)

/-- The instruction with the table's bits, as the host's next request (log entry 8). -/
def State.withFetchWord (s : State) (nbits w : Nat) : State := s.withFrame (tableBytes nbits w)

end Sys2Proof.Machine
end

