-- ==== Sys2Proof/Safety.lean ====
section
/-! DEFINITION. The terms the claims use: the state each operation of the block leaves, written out register by register
from the "State written" lists of the spec (spec/40_checksum.md R70, spec/42_codec.md R100 to R106, spec/60_exceptions.md
R157), and the invariant of the machine. Nothing here is called by the machine. -/

namespace Sys2Proof.Machine

/-- The 256 values of the byte table `T` as R75 prints them, row `a[7:4]`, column `a[3:0]`. The machine does not use it. -/
def crcTable : List Byte :=
  [0x00, 0x31, 0x62, 0x53, 0xC4, 0xF5, 0xA6, 0x97, 0xB9, 0x88, 0xDB, 0xEA, 0x7D, 0x4C, 0x1F, 0x2E] ++
  [0x43, 0x72, 0x21, 0x10, 0x87, 0xB6, 0xE5, 0xD4, 0xFA, 0xCB, 0x98, 0xA9, 0x3E, 0x0F, 0x5C, 0x6D] ++
  [0x86, 0xB7, 0xE4, 0xD5, 0x42, 0x73, 0x20, 0x11, 0x3F, 0x0E, 0x5D, 0x6C, 0xFB, 0xCA, 0x99, 0xA8] ++
  [0xC5, 0xF4, 0xA7, 0x96, 0x01, 0x30, 0x63, 0x52, 0x7C, 0x4D, 0x1E, 0x2F, 0xB8, 0x89, 0xDA, 0xEB] ++
  [0x3D, 0x0C, 0x5F, 0x6E, 0xF9, 0xC8, 0x9B, 0xAA, 0x84, 0xB5, 0xE6, 0xD7, 0x40, 0x71, 0x22, 0x13] ++
  [0x7E, 0x4F, 0x1C, 0x2D, 0xBA, 0x8B, 0xD8, 0xE9, 0xC7, 0xF6, 0xA5, 0x94, 0x03, 0x32, 0x61, 0x50] ++
  [0xBB, 0x8A, 0xD9, 0xE8, 0x7F, 0x4E, 0x1D, 0x2C, 0x02, 0x33, 0x60, 0x51, 0xC6, 0xF7, 0xA4, 0x95] ++
  [0xF8, 0xC9, 0x9A, 0xAB, 0x3C, 0x0D, 0x5E, 0x6F, 0x41, 0x70, 0x23, 0x12, 0x85, 0xB4, 0xE7, 0xD6] ++
  [0x7A, 0x4B, 0x18, 0x29, 0xBE, 0x8F, 0xDC, 0xED, 0xC3, 0xF2, 0xA1, 0x90, 0x07, 0x36, 0x65, 0x54] ++
  [0x39, 0x08, 0x5B, 0x6A, 0xFD, 0xCC, 0x9F, 0xAE, 0x80, 0xB1, 0xE2, 0xD3, 0x44, 0x75, 0x26, 0x17] ++
  [0xFC, 0xCD, 0x9E, 0xAF, 0x38, 0x09, 0x5A, 0x6B, 0x45, 0x74, 0x27, 0x16, 0x81, 0xB0, 0xE3, 0xD2] ++
  [0xBF, 0x8E, 0xDD, 0xEC, 0x7B, 0x4A, 0x19, 0x28, 0x06, 0x37, 0x64, 0x55, 0xC2, 0xF3, 0xA0, 0x91] ++
  [0x47, 0x76, 0x25, 0x14, 0x83, 0xB2, 0xE1, 0xD0, 0xFE, 0xCF, 0x9C, 0xAD, 0x3A, 0x0B, 0x58, 0x69] ++
  [0x04, 0x35, 0x66, 0x57, 0xC0, 0xF1, 0xA2, 0x93, 0xBD, 0x8C, 0xDF, 0xEE, 0x79, 0x48, 0x1B, 0x2A] ++
  [0xC1, 0xF0, 0xA3, 0x92, 0x05, 0x34, 0x67, 0x56, 0x78, 0x49, 0x1A, 0x2B, 0xBC, 0x8D, 0xDE, 0xEF] ++
  [0x82, 0xB3, 0xE0, 0xD1, 0x46, 0x77, 0x24, 0x15, 0x3B, 0x0A, 0x59, 0x68, 0xFF, 0xCE, 0x9D, 0xAC]

/-- What ACC holds after the checksums of the words in order, one computation per word (R15). -/
def lastChecksum (acc : Byte) : List Word → Byte
  | [] => acc
  | w :: ws => lastChecksum (checksum w) ws

/-- After ENCODE of as many parameters as the descriptor counts (R100, R102). -/
def State.afterEncode (s : State) (d : Descriptor) (ps : List Word) : State :=
  { s with
    desc := d
    p := ps
    gi := ps.length
    acc := lastChecksum s.acc ps
    txbuf := Memory.ofBytes (commandFrame d.opcode ps)
    txlen := 2 + 3 * ps.length
    status := .success
    errReceived := 0
    errExpected := 0
    errIndex := 0 }

/-- After ENCODE raised ParameterCountMismatch (R101, R157). -/
def State.afterCountMismatch (s : State) (d : Descriptor) (ps : List Word) : State :=
  { s with
    desc := d
    p := ps
    gi := 0
    txbuf := []
    txlen := 0
    status := .parameterCountMismatch
    errReceived := 0
    errExpected := 0
    errIndex := 0 }

/-- After DECODE of the groups of `ws` (R103). -/
def State.afterDecode (s : State) (ws : List Word) : State :=
  { s with
    rxbuf := Memory.ofBytes (groups ws)
    rxlen := 3 * ws.length
    rc := ws.length
    w := ws
    gi := ws.length
    acc := lastChecksum s.acc ws
    status := .success
    errReceived := 0
    errExpected := 0
    errIndex := 0 }

/-- After DECODE raised MalformedResponse (R104, R157). -/
def State.afterMalformed (s : State) (bs : List Byte) (n : Nat) : State :=
  { s with
    rxbuf := Memory.ofBytes bs
    rxlen := bs.length
    rc := n
    w := []
    gi := 0
    status := .malformedResponse
    errReceived := 0
    errExpected := 0
    errIndex := 0 }

/-- After DECODE raised ChecksumMismatch at group `index`, whose word is `word` and whose third byte is `received`
(R105, R106, R157). -/
def State.afterMismatch (s : State) (bs : List Byte) (n index : Nat) (word : Word) (received : Byte) : State :=
  { s with
    rxbuf := Memory.ofBytes bs
    rxlen := bs.length
    rc := n
    w := []
    gi := index
    acc := checksum word
    status := .checksumMismatch
    errReceived := received
    errExpected := checksum word
    errIndex := index }

/-- No reset falls at the next `n` points (R180; log entry 19). The points of one transaction are, in order: LOOKUP,
between LOOKUP and ENCODE, ENCODE, write, settle delay, read, DECODE. -/
abbrev State.quiet (s : State) (n : Nat) : Prop := ∀ b ∈ s.resetLine.take n, b = false

/-- No reset falls at any of the points `ns`, counted from the next (R180; log entry 19). -/
abbrev State.Spares (s : State) (ns : List Nat) : Prop := ∀ n ∈ ns, (s.pass n).resetFalls = false

/-- A host that can start a transaction: it holds its transport and is inside no exchange (R19, R121). -/
abbrev State.Ready (s : State) : Prop := s.stalled = none ∧ s.busHeld = true ∧ s.busReleased = false

/-- After step 3 of a transaction: ENCODE, then the write exchange of the whole frame, answered by the first of the
transport's answers; `rest` is left (R121). -/
def State.afterWrite (s : State) (d : Descriptor) (ps : List Word) (rest : List WriteAnswer) : State :=
  { s.afterEncode d ps with
    writeAnswers := rest
    events := s.events ++ [.busWrite s.addr (commandFrame d.opcode ps)] }

/-- After step 4: the settle delay of 25 ms follows a write exchange that succeeded (R121, C7). -/
def State.afterSettle (s : State) (d : Descriptor) (ps : List Word) (rest : List WriteAnswer) : State :=
  { s.afterEncode d ps with
    writeAnswers := rest
    events := s.events ++ [.busWrite s.addr (commandFrame d.opcode ps), .sleep 25] }

/-- After the read exchange of step 6, which asks for `3 * response_count` bytes; `left` is left of the transport's
answers to reads (R121). -/
def State.afterRead (s : State) (d : Descriptor) (ps : List Word) (rest : List WriteAnswer) (left : List ReadAnswer) :
    State :=
  { s.afterEncode d ps with
    writeAnswers := rest
    readAnswers := left
    events := s.events ++
      [.busWrite s.addr (commandFrame d.opcode ps), .sleep 25, .busRead s.addr (3 * d.responseCount)] }

/-- The host is inside an exchange for ever: whatever number of steps follows, nothing is handed back, done or issued; the
block may be reset meanwhile (R186, R180). -/
def State.StuckForEver (t : State) (x : Exchange) : Prop :=
  ∀ n, ∃ u, Host.Core.run Sys2Proof.core n t = .next u ∧ u.stalled = some x ∧ u.returned = t.returned ∧
    u.events = t.events ∧ u.requests = t.requests

/-- A call that handed no value back: it raised an error, was abandoned by a reset, or is inside an exchange that never
returns. -/
def State.NoValue (t : State) : Prop :=
  t.stalled ≠ none ∨ t.returned = .nothing ∨ ∃ e, t.returned = .error e

/-- `t` and `u` end two runs of one request, `u` one without a reset: what the request returned, reported and did is the
same, and of what else the host reads (R24) each register is as without a reset or was left without a value by one. -/
structure State.AsWithoutReset (t u : State) : Prop where
  returned : t.returned = u.returned
  events : t.events = u.events
  stalled : t.stalled = u.stalled
  requests : t.requests = u.requests
  writeAnswers : t.writeAnswers = u.writeAnswers
  readAnswers : t.readAnswers = u.readAnswers
  busHeld : t.busHeld = u.busHeld
  busReleased : t.busReleased = u.busReleased
  addr : t.addr = u.addr
  polls : t.polls = u.polls
  serialIdLegacy : t.serialIdLegacy = u.serialIdLegacy
  roundTies : t.roundTies = u.roundTies
  status : t.status = u.status
  errReceived : t.errReceived = u.errReceived
  errExpected : t.errExpected = u.errExpected
  errIndex : t.errIndex = u.errIndex
  /-- TXBUF and TXLEN. -/
  txbuf : (t.txlen = u.txlen ∧ ∀ a, t.txbuf.read a = u.txbuf.read a) ∨ (t.txlen = 0 ∧ ∀ a, t.txbuf.read a = none)
  /-- W and NW. -/
  words : t.w = u.w ∨ t.w = []

/-- The command a derived operation issues first, under a rule for ties (R123 to R130). -/
def firstCommand (ties : RoundTies) : Operation → Option Instr
  | .getSerialId => some (.getSerialId [])
  | .getFeatureSetVersion => some (.getFeatureSetVersion [])
  | .startMeasurement _ => some (.initAirQuality [])
  | .getAirQuality => some (.measureAirQuality [])
  | .getBaseline => some (.getBaseline [])
  | .setBaseline eco2 tvoc => some (.setBaseline [tvoc, eco2])
  | .setHumidity h => (h.toWord? ties).map fun v => .setHumidity [v]
  | .crc8 _ => none
  | .lookupName _ => none
  | .lookupSelector _ => none
  | .encode _ _ => none
  | .decode _ _ => none
  | .read _ => none
  | .executeName _ _ => none
  | .executeSelector _ _ => none
  | .shutdown => none
  | .construct _ _ => none
  | .reset => none

/-- The acts of one poll of the warm-up loop whose exchanges succeed (R83, R121). -/
def pollEvents (addr : Nat) : List Event := [.busWrite addr [0x20, 0x08], .sleep 25, .busRead addr 6]

/-- The acts after a discarded poll: the callback if one is supplied, then 1 s (R126). -/
def discardEvents (callback : Bool) : List Event := (if callback then [.callback] else []) ++ [.sleep 1000]

/-- The acts of start_measurement before the poll that follows `k` discarded ones (R126). -/
def discardedEvents (addr : Nat) (callback : Bool) (k : Nat) : List Event :=
  [.busWrite addr [0x20, 0x03], .sleep 25] ++ (List.replicate k (pollEvents addr ++ discardEvents callback)).flatten

/-- The acts of start_measurement whose first `k` polls are discarded and whose next poll ends the loop (R126). -/
def warmupEvents (addr : Nat) (callback : Bool) (k : Nat) : List Event :=
  discardedEvents addr callback k ++ pollEvents addr

/-- How many bits of a change to a group are set. -/
def weight (e : BitVec 24) : Nat := (List.range 24).countP fun i => e.getLsbD i

/-- A group as 24 bits, WORD_HI at 23:16, WORD_LO at 15:8, CRC at 7:0 (R51): its CRC field is the checksum of its word. -/
def validGroup (g : BitVec 24) : Prop := g.extractLsb' 0 8 = checksum (g.extractLsb' 8 16)

/-- The invariant of the machine: every step keeps it, from any state that has it. -/
structure State.Inv (s : State) : Prop where
  /-- The buffers are in canonical form. -/
  txWf : s.txbuf.wf = true
  rxWf : s.rxbuf.wf = true
  /-- A buffer has a value at exactly the offsets below its length (R30). -/
  txExact : ∀ a, (s.txbuf.read a).isSome = true ↔ a < s.txlen
  rxExact : ∀ a, (s.rxbuf.read a).isSome = true ↔ a < s.rxlen
  /-- TXBUF holds no frame, or a frame of `2 + 3 * NP` bytes (R101, R102). -/
  txFrame : s.txlen = 0 ∨ s.txlen = 2 + 3 * s.np
  /-- W holds no word or as many as were asked for: "decode is all-or-nothing" (R106, R158). -/
  allOrNothing : s.nw = 0 ∨ s.nw = s.rc
  /-- The group index is bounded by the group count (R14). -/
  giBound : s.gi ≤ max s.np s.rc
  /-- "When STATUS is not 3 they hold 0" (R18). -/
  recordZero : s.status ≠ .checksumMismatch → s.errReceived = 0 ∧ s.errExpected = 0 ∧ s.errIndex = 0
  /-- "`received != expected` always holds in a raised ChecksumMismatch" (R153). -/
  recordDiffers : s.status = .checksumMismatch → s.errReceived ≠ s.errExpected
  /-- BusError is "never raised by the block" (R155). -/
  noBusCode : s.status ≠ .busError
  /-- `polls` is in 0..WARMUP_CAP (R19, R22). -/
  pollsBound : s.polls ≤ warmupCap
  /-- BUS_RELEASED is "false while the handle is held" (R19). -/
  heldNotReleased : s.busHeld = true → s.busReleased = false

end Sys2Proof.Machine
end

