-- ==== Sys2Proof/Certificates/Slice0/Obligations.lean ====
section
/-! DEFINITION. The statements about the machine, each with the rule of spec/ it formalises. Where a statement is about a
run without a reset in it, it says so by `s.quiet n`: no reset of the block falls at the next `n` points (spec R180; log
entry 19); `s.pass n` is `s` with these points passed. -/

open Sys2Proof Sys2Proof.Machine

/-! ## Encoding -/

/-- Format C loses nothing (spec/30_encoding.md section 2, R52, R56): the frame of a well-formed instruction, whatever
follows it, is read back as that instruction with every parameter word, and what follows is left. -/
def Obligations.DecodeOfEncodeIsIdentity : Prop :=
  ∀ (i : Instr) (rest : List Byte), i.wf = true → decode (encode i ++ rest) = .ok (i, rest)

/-- Every byte sequence the decoder accepts is the frame of the well-formed instruction it answers, followed by the rest
(spec/30_encoding.md section 2). That the receiver of a command frame checks the third byte of each group is the model's
choice (log entry 8); the rule on the length of a frame (R56) does not ask for it. -/
def Obligations.EncodeOfDecodeIsIdentity : Prop :=
  ∀ (bs rest : List Byte) (i : Instr), decode bs = .ok (i, rest) → i.wf = true ∧ bs = encode i ++ rest

/-- Frames written out from R55, R85 and R86 are read as the instructions they stand for. -/
def Obligations.WrittenFramesDecode : Prop :=
  decodeFrame [0x20, 0x03] = .ok (.initAirQuality []) ∧
  decodeFrame [0x20, 0x08] = .ok (.measureAirQuality []) ∧
  decodeFrame [0x20, 0x15] = .ok (.getBaseline []) ∧
  decodeFrame [0x20, 0x1E, 0x8E, 0x68, 0xCD, 0x8A, 0x5C, 0x4F] = .ok (.setBaseline [0x8E68, 0x8A5C]) ∧
  decodeFrame [0x20, 0x61, 0x00, 0x0C, 0xFC] = .ok (.setHumidity [0x000C]) ∧
  decodeFrame [0x20, 0x2F] = .ok (.getFeatureSetVersion []) ∧
  decodeFrame [0x20, 0x50] = .ok (.measureRawSignals []) ∧
  decodeFrame [0x36, 0x82] = .ok (.getSerialId [])

/-- "Of the 65536 possible opcode values, the 65528 that are not in rule R55 have no meaning in this hardware" (R57): a
frame with such an opcode is refused by name, and so is a step on it; these are all but the eight of R55, 65528 in number. -/
def Obligations.UnlistedOpcodeHasNoMeaning : Prop :=
  (∀ (b0 b1 : Byte) (rest : List Byte), (∀ c : Command, c.descriptor.opcode ≠ assemble b0 b1) →
    decode (b0 :: b1 :: rest) = .error (.unknownOpcode (assemble b0 b1)) ∧
    ∀ (s : State) (rs : List Request), s.stalled = none → s.requests = .commandFrame (b0 :: b1 :: rest) :: rs →
      step s = .refused (.undecodable (.unknownOpcode (assemble b0 b1)))) ∧
  (∀ opcode : Word, (∀ c : Command, c.descriptor.opcode ≠ opcode) ↔
    opcode ∉ [0x2003, 0x2008, 0x2015, 0x201E, 0x2061, 0x202F, 0x2050, 0x3682]) ∧
  {opcode : Word | ∀ c : Command, c.descriptor.opcode ≠ opcode}.ncard = 65528

/-- A command frame whose parameter group `g` is the first with a wrong third byte is refused with that index, and a
frame that ends inside its parameter groups is refused as truncated (spec/30_encoding.md section 2; the receiver's check
is the model's reading, log entry 8). -/
def Obligations.BadParameterGroupIsRejected : Prop :=
  (∀ (c : Command) (ps : List Word) (b0 b1 crc : Byte) (rest : List Byte),
    ps.length < c.descriptor.parameterCount → crc ≠ checksum (assemble b0 b1) →
    decode (commandFrame c.descriptor.opcode ps ++ b0 :: b1 :: crc :: rest) = .error (.badChecksum ps.length)) ∧
  (∀ (c : Command) (ps : List Word) (rest : List Byte),
    ps.length < c.descriptor.parameterCount → rest.length < 3 →
    decode (commandFrame c.descriptor.opcode ps ++ rest) = .error (.truncated ps.length))

/-- R92: the invariants of the registry table, with its eight entries (R55) written out. -/
def Obligations.RegistryTable : Prop :=
  registry =
    [⟨"init_air_quality", 0x2003, 0, 0⟩, ⟨"measure_air_quality", 0x2008, 0, 2⟩, ⟨"get_baseline", 0x2015, 0, 2⟩,
      ⟨"set_baseline", 0x201E, 2, 0⟩, ⟨"set_humidity", 0x2061, 1, 0⟩, ⟨"get_feature_set_version", 0x202F, 0, 1⟩,
      ⟨"measure_raw_signals", 0x2050, 0, 2⟩, ⟨"get_serial_id", 0x3682, 0, 3⟩] ∧
  (registry.map Descriptor.name).Nodup ∧
  (registry.map Descriptor.opcode).Nodup ∧
  (∀ d ∈ registry, d.parameterCount ∈ [0, 1, 2] ∧ d.responseCount ∈ [0, 1, 2, 3]) ∧
  (∀ d ∈ registry, d.parameterCount = 0 ∨ d.responseCount = 0) ∧
  (∀ n : Fin 8, (registry[n.val]?.map Descriptor.responseCount = some 0) ↔ n.val ∈ [0, 3, 4])

/-! ## The Checksum Engine -/

/-- R72: one iteration, on numbers, its equivalent form, and the rule's examples. -/
def Obligations.StepIsShiftAndConditionalXor : Prop :=
  (∀ a : Byte, (crcStep a).toNat =
    if a.toNat.testBit 7 then ((a.toNat <<< 1) ^^^ 0x31) &&& 0xFF else (a.toNat <<< 1) &&& 0xFF) ∧
  (∀ a : Byte, (crcStep a).toNat = ((a.toNat <<< 1) &&& 0xFF) ^^^ (if a.toNat.testBit 7 then 0x31 else 0x00)) ∧
  crcStep 0xFF = 0xCF ∧ crcStep 0x6F = 0xDE ∧ crcStep 0x80 = 0x31 ∧ crcStep 0x00 = 0x00 ∧ crcStep 0x01 = 0x02

/-- R71: seed 0xFF; for the two bytes, most significant first, XOR the byte in and then iterate `step` eight times; the
accumulator at the end is returned. -/
def Obligations.ChecksumFollowsTheAlgorithm : Prop :=
  ∀ w : Word, checksum w =
    crcStep^[8] (crcStep^[8] (0xFF ^^^ (w >>> 8).setWidth 8) ^^^ w.setWidth 8)

/-- R75: the byte table is eight applications of `step`, and the checksum is two look-ups in it. -/
def Obligations.ByteTableForm : Prop :=
  (∀ a : Byte, crcTable[a.toNat]? = some (crcStep^[8] a)) ∧
  (∀ w : Word, ∃ t : Byte, crcTable[(0xFF ^^^ (w >>> 8).setWidth 8 : Byte).toNat]? = some t ∧
    crcTable[(t ^^^ w.setWidth 8).toNat]? = some (checksum w))

/-- R76: `step` and its eightfold iterate are linear over XOR, the checksum is affine with constant 0x81, it is
determined by the sixteen one-bit words, and each byte is the checksum of exactly 256 words. -/
def Obligations.ChecksumIsAffineAndBalanced : Prop :=
  (∀ a b : Byte, crcStep (a ^^^ b) = crcStep a ^^^ crcStep b) ∧
  crcStep 0 = 0 ∧
  (∀ a b : Byte, crcStep^[8] (a ^^^ b) = crcStep^[8] a ^^^ crcStep^[8] b) ∧
  (∀ a b : Word, checksum (a ^^^ b) = checksum a ^^^ checksum b ^^^ checksum 0x0000) ∧
  (∀ a b : Word, checksum (a ^^^ b) ^^^ 0x81 = (checksum a ^^^ 0x81) ^^^ (checksum b ^^^ 0x81)) ∧
  (∀ w : Word, checksum w =
    (List.range 16).foldl
      (fun x i => if w.getLsbD i then x ^^^ (checksum ((1 : Word) <<< i) ^^^ 0x81) else x) 0x81) ∧
  (∀ c : Byte, {w : Word | checksum w = c}.ncard = 256)

/-- Detection strength (spec/40_checksum.md section 2): a change of 1, 2 or 3 bits, or of any odd number of bits, of a
valid group gives an invalid one; 4 bits can go undetected. -/
def Obligations.SmallChangesOfAGroupAreDetected : Prop :=
  (∀ g e : BitVec 24, validGroup g → e ≠ 0 → weight e ≤ 3 ∨ weight e % 2 = 1 → ¬ validGroup (g ^^^ e)) ∧
  (∃ g e : BitVec 24, validGroup g ∧ weight e = 4 ∧ validGroup (g ^^^ e))

/-- Residue form (spec/40_checksum.md section 2): the engine run over the three bytes of a group ends at zero exactly if
the third byte is the checksum of the first two. -/
def Obligations.ResidueIsZeroExactlyOnValidGroups : Prop :=
  ∀ b0 b1 c : Byte, crcBytes 0xFF [b0, b1, c] = 0 ↔ c = checksum (assemble b0 b1)

/-- Known values (spec/95_test_vectors.md sections 1.1 and 2.1; spec/40_checksum.md section 2). -/
def Obligations.ChecksumVectors : Prop :=
  checksum 0x0000 = 0x81 ∧ checksum 0xFFFF = 0xAC ∧ checksum 0xFF00 = 0x00 ∧ checksum 0x00AC = 0x00 ∧
  checksum 0x00FF = 0x2D ∧ checksum 0x1234 = 0x37 ∧ checksum 0xABCD = 0x6F ∧ checksum 0xBEEF = 0x92

/-- CRC8 as an operation (spec/40_checksum.md section 1): it always completes, hands back the checksum, and changes ACC,
STATUS and the error record only. -/
def Obligations.Crc8Completes : Prop :=
  ∀ (v : Word) (s : State), s.quiet 1 → perform (.crc8 v) s =
    .next { s.pass 1 with
      acc := checksum v, status := .success, errReceived := 0, errExpected := 0, errIndex := 0,
      returned := .checksum (checksum v) }

/-! ## LOOKUP -/

/-- R80: LOOKUP by name and by selector number: the entry, or UnknownCommand; only STATUS and the error record change.
The corner cases of the rule: `measure_test`, the empty string and another capitalisation are no names. -/
def Obligations.LookupAnswersFromTheRegistry : Prop :=
  (∀ (c : Command) (s : State), s.quiet 1 →
    perform (.lookupName c.descriptor.name) s =
      .next { s.pass 1 with
        status := .success, errReceived := 0, errExpected := 0, errIndex := 0, returned := .descriptor c.descriptor } ∧
    perform (.lookupSelector c.selector) s =
      .next { s.pass 1 with
        status := .success, errReceived := 0, errExpected := 0, errIndex := 0,
        returned := .descriptor c.descriptor }) ∧
  (∀ (name : String) (s : State), s.quiet 1 → (∀ c : Command, name ≠ c.descriptor.name) →
    perform (.lookupName name) s =
      .next { s.pass 1 with
        status := .unknownCommand, errReceived := 0, errExpected := 0, errIndex := 0,
        returned := .error (.block .unknownCommand) }) ∧
  (∀ (n : Nat) (s : State), s.quiet 1 → 7 < n →
    perform (.lookupSelector n) s =
      .next { s.pass 1 with
        status := .unknownCommand, errReceived := 0, errExpected := 0, errIndex := 0,
        returned := .error (.block .unknownCommand) }) ∧
  (∀ n : Nat, n ≤ 7 ↔ ∃ c : Command, c.selector = n) ∧
  (∀ c : Command, "measure_test" ≠ c.descriptor.name ∧ "" ≠ c.descriptor.name ∧
    "Measure_Air_Quality" ≠ c.descriptor.name) ∧
  Command.setHumidity.descriptor = ⟨"set_humidity", 0x2061, 1, 0⟩

/-! ## ENCODE and DECODE -/

/-- ENCODE with the right count (spec/42_codec.md section 1): the frame is handed back, TXBUF holds exactly it, and what
the operation does not write is unchanged; nothing of the descriptor but opcode and parameter count matters to the
frame. -/
def Obligations.EncodeBuildsTheFrame : Prop :=
  ∀ (d : Descriptor) (ps : List Word) (s : State), s.quiet 1 → ps.length = d.parameterCount →
    perform (.encode d ps) s =
      .next (((s.pass 1).afterEncode d ps).giveBack (.frame (hi8 d.opcode :: lo8 d.opcode :: groups ps))) ∧
    (∀ a, (s.afterEncode d ps).txbuf.read a = (hi8 d.opcode :: lo8 d.opcode :: groups ps)[a]?) ∧
    (∀ (g : Nat) (v : Word), ps[g]? = some v →
      (s.afterEncode d ps).txbuf.read (2 + 3 * g) = some (hi8 v) ∧
      (s.afterEncode d ps).txbuf.read (3 + 3 * g) = some (lo8 v) ∧
      (s.afterEncode d ps).txbuf.read (4 + 3 * g) = some (checksum v))

/-- The count check comes before any byte, in both directions; TXLEN is 0, and a command issued so makes no bus exchange
and takes no delay (spec/42_codec.md section 1). Its own case there: get_baseline with one element. That the group index is
0 after the failed check, as the next state written out has it, is the model's reading (log entry 12). -/
def Obligations.CountMismatchProducesNothing : Prop :=
  (∀ (d : Descriptor) (ps : List Word) (s : State), s.quiet 1 → ps.length ≠ d.parameterCount →
    perform (.encode d ps) s =
      .next (((s.pass 1).afterCountMismatch d ps).giveBack (.error (.block .parameterCountMismatch)))) ∧
  (∀ (i : Instr) (s : State), i.wf = false → s.Ready → s.quiet 3 →
    ∃ t, exec i s = .next t ∧ t.returned = .error (.block .parameterCountMismatch) ∧
      t.status = .parameterCountMismatch ∧ t.txlen = 0 ∧ t.txbuf = [] ∧ t.events = s.events ∧
      t.writeAnswers = s.writeAnswers ∧ t.readAnswers = s.readAnswers) ∧
  (∀ x : Word, (Instr.getBaseline [x]).wf = false)

/-- The length check of DECODE comes first, whatever the groups hold (spec/42_codec.md section 2). That the group index is
0 after the failed check, as the next state written out has it, is the model's reading (log entry 12). -/
def Obligations.WrongLengthIsMalformed : Prop :=
  ∀ (bs : List Byte) (n : Nat) (s : State), s.quiet 1 → bs.length ≠ 3 * n →
    perform (.decode bs n) s = .next (((s.pass 1).afterMalformed bs n).giveBack (.error (.block .malformedResponse)))

/-- A frame whose groups all verify gives all its words in wire order; otherwise the first failing group is reported with
the received byte, the recomputed checksum and its index from 0, and no word is returned or kept (spec/42_codec.md
section 2). The order of examination and the index base are the spec's own choice, not its source's (decision D6). -/
def Obligations.DecodeIsAllOrNothing : Prop :=
  (∀ (ws : List Word) (s : State), s.quiet 1 →
    perform (.decode (groups ws) ws.length) s = .next (((s.pass 1).afterDecode ws).giveBack (.words ws))) ∧
  (∀ (ws : List Word) (b0 b1 c : Byte) (rest : List Byte) (n : Nat) (s : State), s.quiet 1 →
    (groups ws ++ b0 :: b1 :: c :: rest).length = 3 * n → c ≠ checksum (assemble b0 b1) →
    perform (.decode (groups ws ++ b0 :: b1 :: c :: rest) n) s =
      .next (((s.pass 1).afterMismatch (groups ws ++ b0 :: b1 :: c :: rest) n ws.length (assemble b0 b1) c).giveBack
        (.error (.block (.checksumMismatch c (checksum (assemble b0 b1)) ws.length)))) ∧
    (s.afterMismatch (groups ws ++ b0 :: b1 :: c :: rest) n ws.length (assemble b0 b1) c).nw = 0) ∧
  (∀ (bs : List Byte) (n : Nat), bs.length = 3 * n →
    (∃ ws, ws.length = n ∧ bs = groups ws) ∨
    ∃ ws b0 b1 c rest, c ≠ checksum (assemble b0 b1) ∧ bs = groups ws ++ b0 :: b1 :: c :: rest)

/-- R107: encode then decode gives the parameters back from the bytes after the opcode; the whole frame is malformed;
DECODE on its successes is the inverse of `groups`. -/
def Obligations.RoundTripThroughTheCodec : Prop :=
  (∀ (d : Descriptor) (ps : List Word) (s : State), s.quiet 1 → ps.length = d.parameterCount →
    ∃ t frame, perform (.encode d ps) s = .next t ∧ t.returned = .frame frame ∧
      frame = [hi8 d.opcode, lo8 d.opcode] ++ groups ps ∧
      ∀ s' : State, s'.quiet 1 →
        (∃ u, perform (.decode (frame.drop 2) ps.length) s' = .next u ∧ u.returned = .words ps ∧ u.w = ps) ∧
        ∃ u, perform (.decode frame ps.length) s' = .next u ∧
          u.returned = .error (.block .malformedResponse)) ∧
  (∀ (ws : List Word) (s : State), s.quiet 1 →
    ∃ u, perform (.decode (groups ws) ws.length) s = .next u ∧ u.returned = .words ws) ∧
  (∀ (bs : List Byte) (n : Nat) (s u : State) (ws : List Word),
    perform (.decode bs n) s = .next u → u.returned = .words ws → groups ws = bs)

/-- Corruption (spec/42_codec.md section 3): if only the CRC byte of group `g` is changed, DECODE raises ChecksumMismatch
with that index, the changed byte and the true checksum. -/
def Obligations.CorruptedChecksumByteIsCaught : Prop :=
  ∀ (ws : List Word) (g : Nat) (v : Word) (x : Byte) (s : State), s.quiet 1 → ws[g]? = some v → x ≠ checksum v →
    ∃ t, perform (.decode ((groups ws).set (3 * g + 2) x) ws.length) s = .next t ∧
      t.returned = .error (.block (.checksumMismatch x (checksum v) g)) ∧ t.status = .checksumMismatch ∧
      t.errReceived = x ∧ t.errExpected = checksum v ∧ t.errIndex = g ∧ t.nw = 0

/-- R109: zero counts: a frame without parameters is the two opcode bytes; an empty response decodes to no word and any
other to MalformedResponse; the host makes no read exchange for a command without response, and does not decode. -/
def Obligations.ZeroCounts : Prop :=
  (∀ (d : Descriptor) (s : State), s.quiet 1 → d.parameterCount = 0 →
    ∃ t, perform (.encode d []) s = .next t ∧ t.returned = .frame [hi8 d.opcode, lo8 d.opcode] ∧ t.txlen = 2) ∧
  (∀ s : State, s.quiet 1 →
    ∃ t, perform (.decode [] 0) s = .next t ∧ t.returned = .words [] ∧ t.status = .success) ∧
  (∀ (bs : List Byte) (s : State), s.quiet 1 → bs ≠ [] →
    ∃ t, perform (.decode bs 0) s = .next t ∧ t.returned = .error (.block .malformedResponse)) ∧
  (∀ (i : Instr) (s t : State), i.command.descriptor.responseCount = 0 → exec i s = .next t →
    (s.quiet 5 → t.rxbuf = s.rxbuf ∧ t.rxlen = s.rxlen ∧ t.w = s.w) ∧ t.readAnswers = s.readAnswers ∧
    ∀ e ∈ t.events.drop s.events.length, ∀ a n, e ≠ .busRead a n)

/-- R23: what an operation of the block hands back, STATUS and the error record depend on the operation's own inputs
alone, not on the state it starts from, nor on a reset before it; each of the operations completes. -/
def Obligations.BlockCarriesNothingBetweenOperations : Prop :=
  ∀ o : Operation,
    (∃ v, o = .crc8 v) ∨ (∃ name, o = .lookupName name) ∨ (∃ n, o = .lookupSelector n) ∨
      (∃ d ps, o = .encode d ps) ∨ (∃ bs n, o = .decode bs n) →
    ∃ (r : Returned) (st : Status) (er ee : Byte) (ei : Nat), ∀ s : State, s.quiet 1 →
      ∃ t, perform o s = .next t ∧
        t.returned = r ∧ t.status = st ∧ t.errReceived = er ∧ t.errExpected = ee ∧ t.errIndex = ei

/-! ## The eight commands: completion -/

/-- init_air_quality, set_baseline and set_humidity (spec/41_registry.md section 2, spec/43_controller.md section 2)
complete when the write exchange succeeds: the frame is written whole, the settle delay is taken, the empty sequence is
returned. The next state is written out. -/
def Obligations.CommandsWithoutResponseComplete : Prop :=
  ∀ (s : State) (wa : List WriteAnswer), s.Ready → s.quiet 5 → s.writeAnswers = .ok :: wa →
    exec (.initAirQuality []) s =
      .next (((s.pass 5).afterSettle ⟨"init_air_quality", 0x2003, 0, 0⟩ [] wa).giveBack (.words [])) ∧
    (∀ p0 p1 : Word, exec (.setBaseline [p0, p1]) s =
      .next (((s.pass 5).afterSettle ⟨"set_baseline", 0x201E, 2, 0⟩ [p0, p1] wa).giveBack (.words []))) ∧
    (∀ p0 : Word, exec (.setHumidity [p0]) s =
      .next (((s.pass 5).afterSettle ⟨"set_humidity", 0x2061, 1, 0⟩ [p0] wa).giveBack (.words [])))

/-- measure_air_quality, get_baseline, get_feature_set_version, measure_raw_signals and get_serial_id
(spec/41_registry.md section 2, spec/43_controller.md section 2) complete when the write succeeds and the read is
answered with as many valid groups as the command expects: the words of the groups are returned in wire order. The next
state is written out. -/
def Obligations.CommandsWithResponseComplete : Prop :=
  ∀ (s : State) (wa : List WriteAnswer) (ra : List ReadAnswer) (ws : List Word), s.Ready → s.quiet 7 →
    s.writeAnswers = .ok :: wa → s.readAnswers = .bytes (groups ws) :: ra →
    (ws.length = 2 → exec (.measureAirQuality []) s =
      .next ((((s.pass 7).afterRead ⟨"measure_air_quality", 0x2008, 0, 2⟩ [] wa ra).afterDecode ws).giveBack (.words ws))) ∧
    (ws.length = 2 → exec (.getBaseline []) s =
      .next ((((s.pass 7).afterRead ⟨"get_baseline", 0x2015, 0, 2⟩ [] wa ra).afterDecode ws).giveBack (.words ws))) ∧
    (ws.length = 1 → exec (.getFeatureSetVersion []) s =
      .next ((((s.pass 7).afterRead ⟨"get_feature_set_version", 0x202F, 0, 1⟩ [] wa ra).afterDecode ws).giveBack (.words ws))) ∧
    (ws.length = 2 → exec (.measureRawSignals []) s =
      .next ((((s.pass 7).afterRead ⟨"measure_raw_signals", 0x2050, 0, 2⟩ [] wa ra).afterDecode ws).giveBack (.words ws))) ∧
    (ws.length = 3 → exec (.getSerialId []) s =
      .next ((((s.pass 7).afterRead ⟨"get_serial_id", 0x3682, 0, 3⟩ [] wa ra).afterDecode ws).giveBack (.words ws)))

/-! ## The eight commands: how they end otherwise -/

/-- After a failed write exchange there is no settle delay, no read and no decode; the transport's error goes to the
caller (spec/43_controller.md section 2, D15), and STATUS is left as ENCODE wrote it (R18: code 5 is never the
block's). -/
def Obligations.FailedWriteEndsTheTransaction : Prop :=
  ∀ (i : Instr) (s : State) (e : TransportError) (wa : List WriteAnswer), i.wf = true → s.Ready → s.quiet 4 →
    s.writeAnswers = .failed e :: wa →
    exec i s = .next (((s.pass 4).afterWrite i.command.descriptor i.parameters wa).giveBack (.error (.busError e)))

/-- After a failed read exchange there is no decode: RXBUF, W and RC are as they were (spec/43_controller.md section 2). -/
def Obligations.FailedReadEndsTheTransaction : Prop :=
  ∀ (i : Instr) (s : State) (e : TransportError) (wa : List WriteAnswer) (ra : List ReadAnswer), i.wf = true →
    i.command.descriptor.responseCount ≠ 0 → s.Ready → s.quiet 6 → s.writeAnswers = .ok :: wa →
    s.readAnswers = .failed e :: ra →
    exec i s = .next (((s.pass 6).afterRead i.command.descriptor i.parameters wa ra).giveBack (.error (.busError e)))

/-- A response of the wrong length is malformed whatever its groups hold, and of a response of the right length the first
bad group is reported (spec/60_exceptions.md section 2; the order of the groups and the index from 0 are the spec's
decision D6). That the group index is 0 after the failed length check, as the next state written out has it, is the
model's reading (log entry 12). -/
def Obligations.BadResponseIsReported : Prop :=
  (∀ (i : Instr) (s : State) (bs : List Byte) (wa : List WriteAnswer) (ra : List ReadAnswer), i.wf = true →
    i.command.descriptor.responseCount ≠ 0 → s.Ready → s.quiet 7 → s.writeAnswers = .ok :: wa →
    s.readAnswers = .bytes bs :: ra → bs.length ≠ 3 * i.command.descriptor.responseCount →
    exec i s = .next ((((s.pass 7).afterRead i.command.descriptor i.parameters wa ra).afterMalformed bs
      i.command.descriptor.responseCount).giveBack (.error (.block .malformedResponse)))) ∧
  (∀ (i : Instr) (s : State) (ws : List Word) (b0 b1 c : Byte) (rest : List Byte) (wa : List WriteAnswer)
    (ra : List ReadAnswer), i.wf = true → s.Ready → s.quiet 7 → s.writeAnswers = .ok :: wa →
    s.readAnswers = .bytes (groups ws ++ b0 :: b1 :: c :: rest) :: ra →
    (groups ws ++ b0 :: b1 :: c :: rest).length = 3 * i.command.descriptor.responseCount →
    c ≠ checksum (assemble b0 b1) →
    exec i s = .next ((((s.pass 7).afterRead i.command.descriptor i.parameters wa ra).afterMismatch
      (groups ws ++ b0 :: b1 :: c :: rest) i.command.descriptor.responseCount ws.length (assemble b0 b1) c).giveBack
      (.error (.block (.checksumMismatch c (checksum (assemble b0 b1)) ws.length)))))

/-- An exchange the transport never answers leaves the host inside it for ever, with nothing handed back, and so is any
derived operation around it: at its first command, and start_measurement also at any poll, in the write or in the read
(spec/70_reset_and_hazards.md section 3). That an exhausted list of answers stands for such an exchange, and that a callback
between the polls only returns, are the model's choices (log entries 10, 24). -/
def Obligations.UnansweredExchangeBlocksForEver : Prop :=
  (∀ (i : Instr) (s : State), i.wf = true → s.Ready → s.quiet 3 → s.writeAnswers = [] →
    ∃ t, exec i s = .next t ∧ t.returned = s.returned ∧ t.StuckForEver .write ∧
      t.events = s.events ++ [Event.busWrite s.addr (encode i)] ∧
      ∀ o, firstCommand s.roundTies o = some i → perform o s = .next t) ∧
  (∀ (i : Instr) (s : State) (wa : List WriteAnswer), i.wf = true → i.command.descriptor.responseCount ≠ 0 → s.Ready →
    s.quiet 3 → s.writeAnswers = .ok :: wa → s.readAnswers = [] →
    ∃ t, exec i s = .next t ∧ t.returned = s.returned ∧ t.StuckForEver .read ∧
      t.events = s.events ++ [Event.busWrite s.addr (encode i), .sleep 25,
        .busRead s.addr (3 * i.command.descriptor.responseCount)] ∧
      ∀ o, firstCommand s.roundTies o = some i → perform o s = .next t) ∧
  (∀ (s : State) (callback : Bool) (k : Nat) (ra : List ReadAnswer), s.Ready → k < 20 → s.quiet (8 + 8 * k) →
    s.writeAnswers = List.replicate (k + 1) WriteAnswer.ok →
    s.readAnswers = List.replicate k (ReadAnswer.bytes (groups [400, 0])) ++ ra →
    ∃ t, perform (.startMeasurement callback) s = .next t ∧ t.returned = s.returned ∧ t.StuckForEver .write ∧
      t.events = s.events ++ (discardedEvents s.addr callback k ++ [Event.busWrite s.addr [0x20, 0x08]])) ∧
  (∀ (s : State) (callback : Bool) (k : Nat) (wa : List WriteAnswer), s.Ready → k < 20 → s.quiet (8 + 8 * k) →
    s.writeAnswers = List.replicate (k + 2) WriteAnswer.ok ++ wa →
    s.readAnswers = List.replicate k (ReadAnswer.bytes (groups [400, 0])) →
    ∃ t, perform (.startMeasurement callback) s = .next t ∧ t.returned = s.returned ∧ t.StuckForEver .read ∧
      t.events = s.events ++ (discardedEvents s.addr callback k ++ pollEvents s.addr))

/-- After shutdown every command is refused by name (spec/43_controller.md section 3, D21), and so is one of a host that
never held a transport (spec/43_controller.md section 1 requires one; the refusal is the model's choice, log entry 20). -/
def Obligations.CommandsNeedTheBusHandle : Prop :=
  ∀ (i : Instr) (s : State), s.stalled = none →
    (s.busReleased = true → exec i s = .refused .busReleased) ∧
    (s.busReleased = false → s.busHeld = false → exec i s = .refused .noTransport)

/-- With the bus handle a command is never a fault or a refusal, whatever its parameters, whatever the transport answers
and whenever a reset falls: the model has a next state (spec/43_controller.md section 2, spec/60_exceptions.md sections 3
and 4). It does not say that the command terminates: for an exchange that is never answered the next state is the one of a
host stuck inside it (spec/70_reset_and_hazards.md section 3), which is the model's choice (log entry 10). -/
def Obligations.CommandsNeverStopWithTheBusHandle : Prop :=
  ∀ (i : Instr) (s : State), s.Ready → ∃ t, exec i s = .next t

/-- The acts of a transaction, whatever the answers: a prefix of write, settle delay, read, of lengths 0 to 3, with the
frame of the command whole in the write (R121, R122; spec/20_memory.md section 4). -/
def Obligations.AtMostOneWriteAndOneRead : Prop :=
  ∀ (i : Instr) (s t : State), exec i s = .next t →
    ∃ es, t.events = s.events ++ es ∧
      es <+: [.busWrite s.addr (encode i), .sleep 25, .busRead s.addr (3 * i.command.descriptor.responseCount)] ∧
      (es ≠ [] → i.wf = true) ∧
      (i.command.descriptor.responseCount = 0 → es.length ≤ 2)

/-! ## The eight commands: frames -/

/-- What no command changes (spec/10_state.md R19, R21, R24): the host's bus handle, address, loop counter and
parameters, and what is still to issue; of the points at which a reset could fall it passes at most seven; a command
inside a stuck exchange changes nothing at all. -/
def Obligations.CommandFrameOfTheHost : Prop :=
  ∀ (i : Instr) (s t : State), exec i s = .next t →
    t.busHeld = s.busHeld ∧ t.busReleased = s.busReleased ∧ t.addr = s.addr ∧ t.polls = s.polls ∧
    t.serialIdLegacy = s.serialIdLegacy ∧ t.roundTies = s.roundTies ∧ t.requests = s.requests ∧
    (∃ n, n ≤ 7 ∧ t.resetLine = s.resetLine.drop n) ∧ (s.stalled ≠ none → t = s)

/-- Every byte of TXBUF after a command (spec/42_codec.md section 1): the byte of the command's frame at that offset, no
value beyond it, and no value at all if the parameter count was wrong. If a reset fell meanwhile, TXBUF reads as the frame
or has no value (spec/70_reset_and_hazards.md section 1; log entry 19). -/
def Obligations.CommandFrameOfTxbuf : Prop :=
  ∀ (i : Instr) (s t : State), s.stalled = none → exec i s = .next t →
    (s.quiet 7 →
      (i.wf = true → t.txlen = (encode i).length ∧ ∀ a, t.txbuf.read a = (encode i)[a]?) ∧
      (i.wf = false → t.txlen = 0 ∧ ∀ a, t.txbuf.read a = none) ∧
      t.p = i.parameters ∧ t.desc = i.command.descriptor) ∧
    ((i.wf = true ∧ t.txlen = (encode i).length ∧ ∀ a, t.txbuf.read a = (encode i)[a]?) ∨
      (t.txlen = 0 ∧ ∀ a, t.txbuf.read a = none))

/-- Every byte of RXBUF after a command: unchanged, with RXLEN, RC and the response words, unless the command read a
response; then RXBUF holds exactly the bytes the transport answered (spec/10_state.md R13, R17, R24). Only if a reset fell
meanwhile can it have no value, with no response word left (spec/70_reset_and_hazards.md section 1; log entry 19). -/
def Obligations.CommandFrameOfRxbuf : Prop :=
  ∀ (i : Instr) (s t : State), exec i s = .next t →
    (t.rxlen = s.rxlen ∧ t.rc = s.rc ∧ t.w = s.w ∧ ∀ a, t.rxbuf.read a = s.rxbuf.read a) ∨
    (i.command.descriptor.responseCount ≠ 0 ∧ t.rc = i.command.descriptor.responseCount ∧
      ∃ bs ra, s.readAnswers = .bytes bs :: ra ∧ t.readAnswers = ra ∧ t.rxlen = bs.length ∧
        ∀ a, t.rxbuf.read a = bs[a]?) ∨
    (¬ s.quiet 7 ∧ t.rxlen = 0 ∧ t.nw = 0 ∧ ∀ a, t.rxbuf.read a = none)

/-! ## The step -/

/-- A step whose next request is a command frame runs exactly the instruction the frame decodes to; a call is performed;
an idle machine and a stuck host stay as they are, but for a reset that may fall; bytes that are no frame are refused
(spec/10_state.md section 1, spec/20_memory.md section 7; the list of requests is the model's form of a program, log entries
6 and 7; resets, log entry 19). -/
def Obligations.StepRunsTheNextRequest : Prop :=
  ∀ s : State,
    (∀ (bs : List Byte) (rs : List Request) (i : Instr), s.stalled = none → s.requests = .commandFrame bs :: rs →
      decode bs = .ok (i, []) → step s = exec i { s with requests := rs }) ∧
    (∀ (o : Operation) (rs : List Request), s.stalled = none → s.requests = .call o :: rs →
      step s = perform o { s with requests := rs }) ∧
    (∀ (bs : List Byte) (rs : List Request) (e : DecodeError), s.stalled = none → s.requests = .commandFrame bs :: rs →
      decode bs = .error e → step s = .refused (.undecodable e)) ∧
    (∀ (bs left : List Byte) (rs : List Request) (i : Instr), s.stalled = none → s.requests = .commandFrame bs :: rs →
      decode bs = .ok (i, left) → left ≠ [] → step s = .refused (.undecodable (.trailingBytes left.length))) ∧
    (s.requests = [] → step s = .next s.idlePoint) ∧
    (s.stalled ≠ none → step s = .next s.idlePoint) ∧
    (s.quiet 1 → s.idlePoint = s.pass 1) ∧
    (∀ rest, s.resetLine = true :: rest → s.idlePoint = resetBlock (s.pass 1))

/-- A command issued by name, by selector number or by its frame is the same instruction (R91, R60). An unknown name or
selector is reported before anything else, also with a wrong parameter count, and nothing is encoded or sent (R151,
spec/60_exceptions.md section 2). -/
def Obligations.ExecuteByNameIsTheInstruction : Prop :=
  (∀ (c : Command) (ps : List Word) (s : State),
    perform (.executeName c.descriptor.name ps) s = exec (c.instr ps) s ∧
    perform (.executeSelector c.selector ps) s = exec (c.instr ps) s) ∧
  (∀ (name : String) (ps : List Word) (s : State), s.Ready → s.quiet 1 → (∀ c : Command, name ≠ c.descriptor.name) →
    perform (.executeName name ps) s =
      .next { s.pass 1 with
        status := .unknownCommand, errReceived := 0, errExpected := 0, errIndex := 0,
        returned := .error (.block .unknownCommand) }) ∧
  (∀ (n : Nat) (ps : List Word) (s : State), s.Ready → s.quiet 1 → 7 < n →
    perform (.executeSelector n ps) s =
      .next { s.pass 1 with
        status := .unknownCommand, errReceived := 0, errExpected := 0, errIndex := 0,
        returned := .error (.block .unknownCommand) })

/-- Every step, of any request, keeps the invariant of the machine (spec/10_state.md R14, R18, R19, R22, R30; the
canonical form of the buffers is the model's own). -/
def Obligations.StepKeepsTheInvariant : Prop :=
  ∀ s t : State, s.Inv → step s = .next t → t.Inv

/-- The state after reset has the invariant. -/
def Obligations.ResetHasTheInvariant : Prop := State.reset.Inv

/-- The values the spec's reset table gives (spec/10_state.md section 9); ACC, DESC, RC and ROUND_TIES, which it leaves
open, are not stated. -/
def Obligations.ResetValues : Prop :=
  State.reset.np = 0 ∧ State.reset.nw = 0 ∧ State.reset.gi = 0 ∧ State.reset.txlen = 0 ∧ State.reset.rxlen = 0 ∧
  State.reset.status.code = 0 ∧ State.reset.errReceived = 0 ∧ State.reset.errExpected = 0 ∧
  State.reset.errIndex = 0 ∧ State.reset.busHeld = true ∧ State.reset.busReleased = false ∧
  State.reset.addr = 0x58 ∧ State.reset.polls = 0 ∧ State.reset.serialIdLegacy = false

/-- No operation of the block and no command makes an access outside its buffers (R31: "No rule of the spec issues an
access that violates these bounds"): a step faults only when the host itself reads a word or byte that does not exist. -/
def Obligations.OnlyHostReadsFault : Prop :=
  ∀ (s : State) (f : Fault), step s = .fault f →
    ∃ rs, (∃ i, s.requests = .call (.read (.responseWord i)) :: rs ∧ s.nw ≤ i) ∨
      (∃ a, s.requests = .call (.read (.txByte a)) :: rs ∧ (s.txlen ≤ a ∨ s.txbuf.read a = none))

/-- A step only appends to what the host has done, and takes at most one request off the list (spec/20_memory.md
section 7: operations in the order issued, nothing is undone or repeated). -/
def Obligations.StepOnlyAppendsActs : Prop :=
  ∀ s t : State, step s = .next t →
    s.events <+: t.events ∧ (t.requests = s.requests ∨ ∃ r, s.requests = r :: t.requests)

/-! ## The host sequencer -/

/-- `get_serial_id()` (R123): one transaction of the command; the three distinct words, as a number, are returned; with
SERIAL_ID_LEGACY the first word stands again in place of the third. The next state is written out. -/
def Obligations.SerialIdCombinesThreeWords : Prop :=
  ∀ (s : State) (wa : List WriteAnswer) (ra : List ReadAnswer) (w0 w1 w2 : Word), s.Ready → s.quiet 7 →
    s.writeAnswers = .ok :: wa → s.readAnswers = .bytes (groups [w0, w1, w2]) :: ra →
    ∃ id : BitVec 48, perform .getSerialId s = .next
      ((((s.pass 7).afterRead ⟨"get_serial_id", 0x3682, 0, 3⟩ [] wa ra).afterDecode [w0, w1, w2]).giveBack (.serialId id)) ∧
      id.toNat = (w0.toNat <<< 32) ||| (w1.toNat <<< 16) ||| (if s.serialIdLegacy then w0.toNat else w2.toNat)

/-- `get_feature_set_version()` (R124): one transaction of the command; bits 15-12 and the low byte are returned, bits
11:8 are neither returned nor checked. The next state is written out. -/
def Obligations.FeatureSetFields : Prop :=
  ∀ (s : State) (wa : List WriteAnswer) (ra : List ReadAnswer) (v : Word), s.Ready → s.quiet 7 →
    s.writeAnswers = .ok :: wa → s.readAnswers = .bytes (groups [v]) :: ra →
    ∃ (productType : BitVec 4) (version : Byte), perform .getFeatureSetVersion s = .next
      ((((s.pass 7).afterRead ⟨"get_feature_set_version", 0x202F, 0, 1⟩ [] wa ra).afterDecode [v]).giveBack
        (.featureSet productType version)) ∧
      productType.toNat = v.toNat / 4096 ∧ version.toNat = v.toNat % 256

/-- `get_air_quality()` and `get_baseline()` (spec/43_controller.md section 3): the pair (eco2, tvoc) is (word 0, word 1),
unchanged. For get_baseline this order is the spec's own reading of its source, "a decision, not a certainty" (C4, D11). -/
def Obligations.PairsAreInWireOrder : Prop :=
  ∀ (s : State) (wa : List WriteAnswer) (ra : List ReadAnswer) (w0 w1 : Word), s.Ready → s.quiet 7 →
    s.writeAnswers = .ok :: wa → s.readAnswers = .bytes (groups [w0, w1]) :: ra →
    perform .getAirQuality s = .next
      ((((s.pass 7).afterRead ⟨"measure_air_quality", 0x2008, 0, 2⟩ [] wa ra).afterDecode [w0, w1]).giveBack
        (.reading w0 w1)) ∧
    perform .getBaseline s = .next
      ((((s.pass 7).afterRead ⟨"get_baseline", 0x2015, 0, 2⟩ [] wa ra).afterDecode [w0, w1]).giveBack
        (.baseline w0 w1))

/-- `set_baseline(eco2, tvoc)` (R129): tvoc is first on the wire; no value is returned. -/
def Obligations.SetBaselineSendsTvocFirst : Prop :=
  ∀ (s : State) (wa : List WriteAnswer) (eco2 tvoc : Word), s.Ready → s.quiet 5 → s.writeAnswers = .ok :: wa →
    perform (.setBaseline eco2 tvoc) s =
      .next (((s.pass 5).afterSettle ⟨"set_baseline", 0x201E, 2, 0⟩ [tvoc, eco2] wa).giveBack .unit) ∧
    (s.afterSettle ⟨"set_baseline", 0x201E, 2, 0⟩ [tvoc, eco2] wa).events =
      s.events ++ [Event.busWrite s.addr [0x20, 0x1E, hi8 tvoc, lo8 tvoc, checksum tvoc, hi8 eco2, lo8 eco2, checksum eco2],
        .sleep 25]

/-- `set_humidity(humidity)` (spec/43_controller.md section 3): the integer sent is nearest to the operand, a tie goes
by ROUND_TIES, there is no scaling, and an operand that is no number or rounds outside 0..65535 is refused. -/
def Obligations.HumidityIsRoundedToTheNearestWord : Prop :=
  (∀ (ties : RoundTies) (num : Int) (den : Nat), den ≠ 0 →
    |2 * (roundToNearest ties num den * den - num)| ≤ den ∧
    (|2 * (roundToNearest ties num den * den - num)| = den →
      (ties = .halfToEven → roundToNearest ties num den % 2 = 0) ∧
      (ties = .halfAwayFromZero → |num| ≤ |roundToNearest ties num den * den|))) ∧
  (∀ (s : State) (wa : List WriteAnswer) (num : Int) (den : Nat) (h : Nat), s.Ready → s.quiet 5 →
    s.writeAnswers = .ok :: wa → den ≠ 0 → roundToNearest s.roundTies num den = h → h ≤ 65535 →
    perform (.setHumidity (.finite num den)) s =
      .next (((s.pass 5).afterSettle ⟨"set_humidity", 0x2061, 1, 0⟩ [BitVec.ofNat 16 h] wa).giveBack .unit)) ∧
  (∀ (s : State) (x : Humidity),
    (x = .nan ∨ x = .posInfinity ∨ x = .negInfinity ∨
      ∃ num den, x = .finite num den ∧
        (den = 0 ∨ roundToNearest s.roundTies num den < 0 ∨ 65535 < roundToNearest s.roundTies num den)) →
    perform (.setHumidity x) s = .refused .notAWord)

/-- The warm-up loop (spec/43_controller.md section 3) ends at the first reading that differs from (400, 0) in either
word: with `k` placeholders before it, k + 1 polls, k callbacks if one is supplied, k delays of 1 s; it returns nothing.
That no callback and no delay follow the last poll is the spec's decision D12; that the callback returns and does nothing of
its own is the model's choice (log entry 24). -/
def Obligations.WarmupEndsOnAChangedReading : Prop :=
  ∀ (s : State) (callback : Bool) (k : Nat) (eco2 tvoc : Word) (wa : List WriteAnswer) (ra : List ReadAnswer),
    s.Ready → k < 20 → s.quiet (12 + 8 * k) → eco2 ≠ 400 ∨ tvoc ≠ 0 →
    s.writeAnswers = List.replicate (k + 2) WriteAnswer.ok ++ wa →
    s.readAnswers = List.replicate k (ReadAnswer.bytes (groups [400, 0])) ++ ReadAnswer.bytes (groups [eco2, tvoc]) :: ra →
    ∃ t, perform (.startMeasurement callback) s = .next t ∧
      t.returned = .unit ∧ t.polls = k + 1 ∧ t.w = [eco2, tvoc] ∧ t.writeAnswers = wa ∧ t.readAnswers = ra ∧
      t.events = s.events ++ warmupEvents s.addr callback k

/-- The warm-up loop ends after exactly 20 polls if every reading is (400, 0): 19 callbacks if one is supplied, 19
delays of 1 s and 21 of 25 ms, at least 19.525 s in all (spec/43_controller.md section 3, spec/70_reset_and_hazards.md
section 4). That no callback and no delay follow the twentieth poll is the spec's decision D12; that the callback returns
and does nothing of its own is the model's choice (log entry 24). -/
def Obligations.WarmupCapIsTwentyPolls : Prop :=
  ∀ (s : State) (callback : Bool) (wa : List WriteAnswer) (ra : List ReadAnswer), s.Ready → s.quiet 164 →
    s.writeAnswers = List.replicate 21 WriteAnswer.ok ++ wa →
    s.readAnswers = List.replicate 20 (ReadAnswer.bytes (groups [400, 0])) ++ ra →
    ∃ t, perform (.startMeasurement callback) s = .next t ∧
      t.returned = .unit ∧ t.polls = 20 ∧ t.writeAnswers = wa ∧ t.readAnswers = ra ∧
      t.events = s.events ++ warmupEvents s.addr callback 19 ∧
      leastElapsed (warmupEvents s.addr callback 19) = 19525 ∧
      (warmupEvents s.addr callback 19).count .callback = (if callback then 19 else 0)

/-- "Each delegates to `execute` and propagates every error of `execute` unchanged" (spec/43_controller.md section 3): if
the first command of a derived operation hands no value back, because it raised an error, was abandoned by a reset (log
entry 19) or is stuck (log entry 10), the operation ends in the same state; and so does start_measurement if a poll does,
after any number of discarded ones, with a callback that only returns (log entry 24). -/
def Obligations.DerivedOperationsPropagateErrors : Prop :=
  (∀ (o : Operation) (i : Instr) (s t : State), firstCommand s.roundTies o = some i → exec i s = .next t → t.NoValue →
    perform o s = .next t) ∧
  (∀ (s : State) (callback : Bool) (k : Nat) (wa : List WriteAnswer) (ra : List ReadAnswer), s.Ready → k < 20 →
    s.quiet (5 + 8 * k) → s.writeAnswers = List.replicate (k + 1) WriteAnswer.ok ++ wa →
    s.readAnswers = List.replicate k (ReadAnswer.bytes (groups [400, 0])) ++ ra →
    ∃ u : State, u.Ready ∧ u.polls = k ∧ u.writeAnswers = wa ∧ u.readAnswers = ra ∧ u.addr = s.addr ∧
      u.resetLine = s.resetLine.drop (5 + 8 * k) ∧ u.returned = s.returned ∧ u.requests = s.requests ∧
      u.events = s.events ++ discardedEvents s.addr callback k ∧
      ∀ t, exec (.measureAirQuality []) u = .next t → t.NoValue → perform (.startMeasurement callback) s = .next t)

/-- Shutdown (spec/43_controller.md section 3, R183): a held handle is released and BUS_RELEASED set; a second shutdown
and one without a handle do nothing; it never fails and changes no register of the block. After it no command reaches
the bus, unless a new sequencer is constructed, which is the model's choice (log entry 25). -/
def Obligations.ShutdownReleasesExactlyOnce : Prop :=
  (∀ s : State, s.busHeld = true → s.busReleased = false →
    perform .shutdown s = .next { s with
      busHeld := false, busReleased := true, events := s.events ++ [.release], returned := .unit }) ∧
  (∀ s : State, s.busHeld = false ∨ s.busReleased = true → perform .shutdown s = .next { s with returned := .unit }) ∧
  (∀ s t : State, s.busReleased = true → s.busHeld = false → step s = .next t →
    (∀ rs handle address, s.requests ≠ .call (.construct handle address) :: rs) →
    t.events = s.events ∧ t.busReleased = true ∧ t.busHeld = false)

/-- Construction of the host sequencer (R19, R120: "State at construction"): the transport the caller supplied,
BUS_RELEASED false, the instance's address, no polls; while a handle is held it is refused (log entry 13). That a
construction which obtained no transport ends in the same way is the model's choice (log entry 23), and so is that a
construction is accepted after shutdown (log entry 25). -/
def Obligations.ConstructionState : Prop :=
  (∀ (s : State) (handle : Bool) (address : Nat), s.busHeld = false →
    perform (.construct handle address) s = .next { s with
      busHeld := handle, busReleased := false, addr := address, polls := 0, returned := .unit }) ∧
  (∀ (s : State) (handle : Bool) (address : Nat), s.busHeld = true →
    perform (.construct handle address) s = .refused .handleHeld)

/-- Reset of the block as a request (spec/70_reset_and_hazards.md section 1): the registers the reset table gives a value
take it; nothing is sent, and the bus handle is neither released nor acquired. That the host's own state, also what the
last call returned and a stuck exchange, is unchanged, and that reset is no call, is the model's choice (log entries 11,
19). -/
def Obligations.ResetTouchesTheBlockOnly : Prop :=
  ∀ s : State, ∃ t, perform .reset s = .next t ∧
    t.np = 0 ∧ t.nw = 0 ∧ t.gi = 0 ∧ t.txlen = 0 ∧ t.rxlen = 0 ∧ t.status = .success ∧ t.errReceived = 0 ∧
    t.errExpected = 0 ∧ t.errIndex = 0 ∧ (∀ a, t.txbuf.read a = none) ∧ (∀ a, t.rxbuf.read a = none) ∧
    t.busHeld = s.busHeld ∧ t.busReleased = s.busReleased ∧ t.addr = s.addr ∧ t.polls = s.polls ∧
    t.serialIdLegacy = s.serialIdLegacy ∧ t.roundTies = s.roundTies ∧ t.events = s.events ∧ t.returned = s.returned ∧
    t.stalled = s.stalled ∧ t.requests = s.requests ∧ t.writeAnswers = s.writeAnswers ∧
    t.readAnswers = s.readAnswers ∧ t.resetLine = s.resetLine

/-- What the host reads of the block (R13, R24, R31): the words of W below NW and the bytes of TXBUF below TXLEN, and
nothing beyond them; a read changes nothing of the machine. -/
def Obligations.HostReads : Prop :=
  ∀ s : State,
    (∀ (i : Nat) (v : Word), s.w[i]? = some v →
      perform (.read (.responseWord i)) s = .next { s with returned := .register v.toNat }) ∧
    (∀ i : Nat, s.nw ≤ i → perform (.read (.responseWord i)) s = .fault (.unspecifiedRead i)) ∧
    (∀ (a : Nat) (b : Byte), a < s.txlen → s.txbuf.read a = some b →
      perform (.read (.txByte a)) s = .next { s with returned := .register b.toNat }) ∧
    (∀ a : Nat, s.txlen ≤ a → perform (.read (.txByte a)) s = .fault (.outOfBounds a)) ∧
    perform (.read .status) s = .next { s with returned := .register s.status.code } ∧
    perform (.read .errReceived) s = .next { s with returned := .register s.errReceived.toNat } ∧
    perform (.read .errExpected) s = .next { s with returned := .register s.errExpected.toNat } ∧
    perform (.read .errIndex) s = .next { s with returned := .register s.errIndex } ∧
    perform (.read .responseCount) s = .next { s with returned := .register s.nw } ∧
    perform (.read .txLength) s = .next { s with returned := .register s.txlen }

/-! ## Reset inside an operation -/

/-- "An operation in progress when reset occurs is abandoned without a result" (spec/70_reset_and_hazards.md section 1):
an operation of the block, LOOKUP, ENCODE or DECODE inside a command; the block is as after reset, and no later step of the
command happens. A reset that falls while the block is idle, the host idle or stuck, resets the block only. That the
host's call ends, without a result, when its operation is abandoned is the model's choice (log entry 19). -/
def Obligations.ResetAbandonsTheOperationInProgress : Prop :=
  (∀ s : State, perform .reset s = .next (resetBlock s)) ∧
  (∀ (o : Operation) (s : State) (rest : List Bool),
    (∃ v, o = .crc8 v) ∨ (∃ name, o = .lookupName name) ∨ (∃ n, o = .lookupSelector n) ∨
      (∃ d ps, o = .encode d ps) ∨ (∃ bs n, o = .decode bs n) → s.resetLine = true :: rest →
    perform o s = .next (resetBlock { s with resetLine := rest, returned := .nothing })) ∧
  (∀ (i : Instr) (s : State) (rest : List Bool), s.Ready →
    s.resetLine = true :: rest ∨ (∃ b, s.resetLine = false :: b :: true :: rest) →
    exec i s = .next (resetBlock { s with resetLine := rest, returned := .nothing })) ∧
  (∀ (i : Instr) (s : State) (bs : List Byte) (wa : List WriteAnswer) (ra : List ReadAnswer) (b2 b4 b5 b6 : Bool)
    (rest : List Bool), i.wf = true → i.command.descriptor.responseCount ≠ 0 → s.Ready →
    s.writeAnswers = .ok :: wa → s.readAnswers = .bytes bs :: ra →
    s.resetLine = [false, b2, false, b4, b5, b6, true] ++ rest →
    exec i s = .next (resetBlock { s.afterRead i.command.descriptor i.parameters wa ra with
      resetLine := rest, returned := .nothing })) ∧
  (∀ (s : State) (rest : List Bool), s.stalled ≠ none ∨ s.requests = [] → s.resetLine = true :: rest →
    step s = .next (resetBlock { s with resetLine := rest }))

/-- A reset that falls while no operation of the block is in progress (between LOOKUP and ENCODE, in the write, the delay
or the read, and in a poll delay of start_measurement) changes nothing of what a command or a derived operation returns,
reports and does; TXBUF and W, which the host reads, are as without it or have no value ("has no effect that a later
operation can observe", spec/70_reset_and_hazards.md section 1). Two runs, one with such resets and one with none; the
points at which a reset can fall are the model's (log entry 19), and so is a callback that only returns (log entry 24). -/
def Obligations.ResetBetweenOperationsChangesNoResult : Prop :=
  (∀ (i : Instr) (s : State), s.Ready → s.Spares [0, 2] → (i.command.descriptor.responseCount ≠ 0 → s.Spares [6]) →
    ∃ t u, exec i s = .next t ∧ exec i { s with resetLine := [] } = .next u ∧ t.AsWithoutReset u) ∧
  (∀ (o : Operation) (i : Instr) (s : State), firstCommand s.roundTies o = some i →
    (∀ callback, o ≠ .startMeasurement callback) → s.Ready → s.Spares [0, 2] →
    (i.command.descriptor.responseCount ≠ 0 → s.Spares [6]) →
    ∃ t u, perform o s = .next t ∧ perform o { s with resetLine := [] } = .next u ∧ t.AsWithoutReset u) ∧
  (∀ (callback : Bool) (s : State), s.Ready → s.Spares [0, 2] →
    (∀ k, k < 20 → s.Spares [5 + 8 * k, 7 + 8 * k, 11 + 8 * k]) →
    ∃ t u, perform (.startMeasurement callback) s = .next t ∧
      perform (.startMeasurement callback) { s with resetLine := [] } = .next u ∧ t.AsWithoutReset u)

/-- "Any error of an `execute` inside ends `start_measurement` at once with that error" (spec/43_controller.md section 3):
a poll whose write fails, whose read fails, or whose response has the wrong length or a bad group, after any number of
discarded polls; no callback and no delay follow it. The index of the bad group is as the spec's decision D6 says; that a
callback before it only returned is the model's choice (log entry 24). -/
def Obligations.WarmupEndsOnTheErrorOfAPoll : Prop :=
  ∀ (s : State) (callback : Bool) (k : Nat) (wa : List WriteAnswer) (ra : List ReadAnswer), s.Ready → k < 20 →
    s.quiet (12 + 8 * k) → s.readAnswers = List.replicate k (ReadAnswer.bytes (groups [400, 0])) ++ ra →
    (∀ e, s.writeAnswers = List.replicate (k + 1) WriteAnswer.ok ++ WriteAnswer.failed e :: wa →
      ∃ t, perform (.startMeasurement callback) s = .next t ∧ t.returned = .error (.busError e) ∧ t.polls = k ∧
        t.events = s.events ++ (discardedEvents s.addr callback k ++ [Event.busWrite s.addr [0x20, 0x08]])) ∧
    (s.writeAnswers = List.replicate (k + 2) WriteAnswer.ok ++ wa →
      (∀ e ra', ra = .failed e :: ra' →
        ∃ t, perform (.startMeasurement callback) s = .next t ∧ t.returned = .error (.busError e) ∧ t.polls = k ∧
          t.events = s.events ++ (discardedEvents s.addr callback k ++ pollEvents s.addr)) ∧
      (∀ bs ra', ra = .bytes bs :: ra' → bs.length ≠ 6 →
        ∃ t, perform (.startMeasurement callback) s = .next t ∧ t.returned = .error (.block .malformedResponse) ∧
          t.polls = k ∧ t.events = s.events ++ (discardedEvents s.addr callback k ++ pollEvents s.addr)) ∧
      (∀ ws b0 b1 x rest ra', ra = .bytes (groups ws ++ b0 :: b1 :: x :: rest) :: ra' →
        (groups ws ++ b0 :: b1 :: x :: rest).length = 6 → x ≠ checksum (assemble b0 b1) →
        ∃ t, perform (.startMeasurement callback) s = .next t ∧
          t.returned = .error (.block (.checksumMismatch x (checksum (assemble b0 b1)) ws.length)) ∧ t.polls = k ∧
          t.events = s.events ++ (discardedEvents s.addr callback k ++ pollEvents s.addr)))
end

