-- ==== Sys2Proof/Laws/Memory.lean ====
section
/-! SUPPORT. Laws of the byte buffers: a read after a write, the canonical form, and buffers laid out from a byte
sequence (spec/20_memory.md R30 to R32). -/

namespace Sys2Proof.Machine

/-- Every offset of a buffer in canonical form after its first is larger than the first. -/
theorem Memory.wf_cons {x : Host.Cell} {m : Memory} :
    Memory.wf (x :: m) = true ↔ (∀ y, m.head? = some y → x.1 < y.1) ∧ Memory.wf m = true := by
  cases m with
  | nil => simp [Memory.wf]
  | cons y m => simp [Memory.wf]

theorem Memory.write_head? (m : Memory) (a : Nat) (b : Byte) :
    ∃ c, (Memory.write m a b).head? = some c ∧ (c.1 = a ∨ m.head? = some c) := by
  cases m with
  | nil => exact ⟨(a, b), by simp [Memory.write]⟩
  | cons x m =>
    obtain ⟨x, y⟩ := x
    simp only [Memory.write]
    split
    · exact ⟨(a, b), by simp⟩
    · split
      · exact ⟨(a, b), by simp⟩
      · exact ⟨(x, y), by simp⟩

/-- A write keeps the canonical form. -/
theorem Memory.write_wf {m : Memory} (h : m.wf = true) (a : Nat) (b : Byte) : (m.write a b).wf = true := by
  induction m with
  | nil => simp [Memory.write, Memory.wf]
  | cons x m ih =>
    obtain ⟨x, y⟩ := x
    obtain ⟨hx, hm⟩ := Memory.wf_cons.mp h
    simp only [Memory.write]
    split
    · exact Memory.wf_cons.mpr ⟨by simpa using ‹a < x›, h⟩
    · split
      · subst a
        exact Memory.wf_cons.mpr ⟨hx, hm⟩
      · refine Memory.wf_cons.mpr ⟨?_, ih hm⟩
        intro z hz
        obtain ⟨c, hc, hcase⟩ := Memory.write_head? m a b
        rw [hc] at hz
        obtain rfl := Option.some.inj hz
        rcases hcase with hca | hca
        · simp only [hca]; omega
        · exact hx _ hca

/-- Reading what was just written. -/
theorem Memory.read_write_same {m : Memory} (a : Nat) (b : Byte) : (m.write a b).read a = some b := by
  induction m with
  | nil => simp [Memory.write, Memory.read]
  | cons x m ih =>
    obtain ⟨x, y⟩ := x
    simp only [Memory.write]
    split
    · simp [Memory.read]
    · split
      · simp [Memory.read]
      · simp [Memory.read, ih, Ne.symm ‹¬a = x›]

/-- A write leaves every other offset alone. -/
theorem Memory.read_write_other {m : Memory} {a a' : Nat} (h : a' ≠ a) (b : Byte) :
    (m.write a b).read a' = m.read a' := by
  induction m with
  | nil => simp [Memory.write, Memory.read, Ne.symm h]
  | cons x m ih =>
    obtain ⟨x, y⟩ := x
    simp only [Memory.write]
    split
    · simp [Memory.read, Ne.symm h]
    · split
      · subst a; simp [Memory.read, Ne.symm h]
      · simp [Memory.read, ih]

theorem Memory.ofBytesFrom_head? (a : Nat) (bs : List Byte) (c : Host.Cell)
    (h : (Memory.ofBytesFrom a bs).head? = some c) : c.1 = a := by
  cases bs with
  | nil => simp [Memory.ofBytesFrom] at h
  | cons b bs => simp [Memory.ofBytesFrom] at h; simp [← h]

/-- A buffer laid out from bytes is in canonical form. -/
theorem Memory.ofBytesFrom_wf (a : Nat) (bs : List Byte) : (Memory.ofBytesFrom a bs).wf = true := by
  induction bs generalizing a with
  | nil => rfl
  | cons b bs ih =>
    refine Memory.wf_cons.mpr ⟨fun y hy => ?_, ih (a + 1)⟩
    have := Memory.ofBytesFrom_head? _ _ _ hy
    simp only; omega

theorem Memory.ofBytes_wf (bs : List Byte) : (Memory.ofBytes bs).wf = true := Memory.ofBytesFrom_wf 0 bs

/-- Each byte is read back at its offset, and no offset beyond has a value. -/
theorem Memory.read_ofBytesFrom (a i : Nat) (bs : List Byte) :
    (Memory.ofBytesFrom a bs).read (a + i) = bs[i]? := by
  induction bs generalizing a i with
  | nil => simp [Memory.ofBytesFrom, Memory.read]
  | cons b bs ih =>
    cases i with
    | zero => simp [Memory.ofBytesFrom, Memory.read]
    | succ i =>
      have h : a + (i + 1) = a + 1 + i := by omega
      simp only [Memory.ofBytesFrom, Memory.read, List.getElem?_cons_succ]
      rw [if_neg (by omega), h, ih]

theorem Memory.read_ofBytes (i : Nat) (bs : List Byte) : (Memory.ofBytes bs).read i = bs[i]? := by
  simpa [Memory.ofBytes] using Memory.read_ofBytesFrom 0 i bs

/-- Writing the byte after the last one lays out one byte more. -/
theorem Memory.ofBytesFrom_write_end (a : Nat) (bs : List Byte) (b : Byte) :
    (Memory.ofBytesFrom a bs).write (a + bs.length) b = Memory.ofBytesFrom a (bs ++ [b]) := by
  induction bs generalizing a with
  | nil => simp [Memory.ofBytesFrom, Memory.write]
  | cons c bs ih =>
    have h : a + (bs.length + 1) = a + 1 + bs.length := by omega
    simp only [Memory.ofBytesFrom, Memory.write, List.length_cons, List.cons_append]
    rw [if_neg (by omega), if_neg (by omega), h, ih]

theorem Memory.ofBytes_write_end {bs : List Byte} {a : Nat} (h : a = bs.length) (b : Byte) :
    (Memory.ofBytes bs).write a b = Memory.ofBytes (bs ++ [b]) := by
  subst h
  simpa [Memory.ofBytes] using Memory.ofBytesFrom_write_end 0 bs b

end Sys2Proof.Machine
end

