-- ==== Sys2Proof/Laws/Operands.lean ====
section
/-! SUPPORT. Laws of the word's bytes and of groups (spec/30_encoding.md R51, R54). -/

namespace Sys2Proof

@[simp] theorem assemble_hi8_lo8 (w : Word) : assemble (hi8 w) (lo8 w) = w := by
  apply BitVec.eq_of_getLsbD_eq
  intro i hi
  simp only [assemble, hi8, lo8, BitVec.getLsbD_append, BitVec.getLsbD_extractLsb']
  by_cases h : i < 8
  · simp [h]
  · simp [h, show i - 8 < 8 by omega, show 8 + (i - 8) = i by omega]

@[simp] theorem hi8_assemble (a b : Byte) : hi8 (assemble a b) = a := by
  apply BitVec.eq_of_getLsbD_eq
  intro i hi
  simp only [assemble, hi8, BitVec.getLsbD_extractLsb', BitVec.getLsbD_append]
  simp [hi]

@[simp] theorem lo8_assemble (a b : Byte) : lo8 (assemble a b) = b := by
  apply BitVec.eq_of_getLsbD_eq
  intro i hi
  simp only [assemble, lo8, BitVec.getLsbD_extractLsb', BitVec.getLsbD_append]
  simp [hi]

@[simp] theorem groupBytes_length (w : Word) : (groupBytes w).length = 3 := rfl

@[simp] theorem groups_length (ws : List Word) : (groups ws).length = 3 * ws.length := by
  induction ws with
  | nil => rfl
  | cons w ws ih => simp only [groups, List.length_append, groupBytes_length, ih, List.length_cons]; omega

@[simp] theorem groups_append (us ws : List Word) : groups (us ++ ws) = groups us ++ groups ws := by
  induction us with
  | nil => rfl
  | cons u us ih => simp [groups, ih, List.append_assoc]

@[simp] theorem commandFrame_length (op : Word) (ps : List Word) :
    (commandFrame op ps).length = 2 + 3 * ps.length := by
  simp [commandFrame]; omega

end Sys2Proof
end

