-- ==== Sys2Proof/Laws/State.lean ====
section
/-! SUPPORT. One lemma per field for each named update of State, true by definition, so that no proof unfolds a record
update: `complete` and `record` (Flags.lean); `runChecksum`, `giveBack`, the host's updates, `emit`, `pass` and
`resetBlock` (Ops.lean). -/

namespace Sys2Proof.Machine

/-! ## State.complete -/

@[simp] theorem State.complete_p (s : State) : s.complete.p = s.p := rfl
@[simp] theorem State.complete_w (s : State) : s.complete.w = s.w := rfl
@[simp] theorem State.complete_gi (s : State) : s.complete.gi = s.gi := rfl
@[simp] theorem State.complete_acc (s : State) : s.complete.acc = s.acc := rfl
@[simp] theorem State.complete_desc (s : State) : s.complete.desc = s.desc := rfl
@[simp] theorem State.complete_rc (s : State) : s.complete.rc = s.rc := rfl
@[simp] theorem State.complete_txbuf (s : State) : s.complete.txbuf = s.txbuf := rfl
@[simp] theorem State.complete_txlen (s : State) : s.complete.txlen = s.txlen := rfl
@[simp] theorem State.complete_rxbuf (s : State) : s.complete.rxbuf = s.rxbuf := rfl
@[simp] theorem State.complete_rxlen (s : State) : s.complete.rxlen = s.rxlen := rfl
@[simp] theorem State.complete_status (s : State) : s.complete.status = .success := rfl
@[simp] theorem State.complete_errReceived (s : State) : s.complete.errReceived = 0 := rfl
@[simp] theorem State.complete_errExpected (s : State) : s.complete.errExpected = 0 := rfl
@[simp] theorem State.complete_errIndex (s : State) : s.complete.errIndex = 0 := rfl
@[simp] theorem State.complete_busHeld (s : State) : s.complete.busHeld = s.busHeld := rfl
@[simp] theorem State.complete_busReleased (s : State) : s.complete.busReleased = s.busReleased := rfl
@[simp] theorem State.complete_addr (s : State) : s.complete.addr = s.addr := rfl
@[simp] theorem State.complete_polls (s : State) : s.complete.polls = s.polls := rfl
@[simp] theorem State.complete_serialIdLegacy (s : State) : s.complete.serialIdLegacy = s.serialIdLegacy := rfl
@[simp] theorem State.complete_roundTies (s : State) : s.complete.roundTies = s.roundTies := rfl
@[simp] theorem State.complete_requests (s : State) : s.complete.requests = s.requests := rfl
@[simp] theorem State.complete_writeAnswers (s : State) : s.complete.writeAnswers = s.writeAnswers := rfl
@[simp] theorem State.complete_readAnswers (s : State) : s.complete.readAnswers = s.readAnswers := rfl
@[simp] theorem State.complete_resetLine (s : State) : s.complete.resetLine = s.resetLine := rfl
@[simp] theorem State.complete_stalled (s : State) : s.complete.stalled = s.stalled := rfl
@[simp] theorem State.complete_events (s : State) : s.complete.events = s.events := rfl
@[simp] theorem State.complete_returned (s : State) : s.complete.returned = s.returned := rfl

/-! ## State.record -/

@[simp] theorem State.record_p (s : State) (e : BlockError) : (s.record e).p = s.p := rfl
@[simp] theorem State.record_w (s : State) (e : BlockError) : (s.record e).w = s.w := rfl
@[simp] theorem State.record_gi (s : State) (e : BlockError) : (s.record e).gi = s.gi := rfl
@[simp] theorem State.record_acc (s : State) (e : BlockError) : (s.record e).acc = s.acc := rfl
@[simp] theorem State.record_desc (s : State) (e : BlockError) : (s.record e).desc = s.desc := rfl
@[simp] theorem State.record_rc (s : State) (e : BlockError) : (s.record e).rc = s.rc := rfl
@[simp] theorem State.record_txbuf (s : State) (e : BlockError) : (s.record e).txbuf = s.txbuf := rfl
@[simp] theorem State.record_txlen (s : State) (e : BlockError) : (s.record e).txlen = s.txlen := rfl
@[simp] theorem State.record_rxbuf (s : State) (e : BlockError) : (s.record e).rxbuf = s.rxbuf := rfl
@[simp] theorem State.record_rxlen (s : State) (e : BlockError) : (s.record e).rxlen = s.rxlen := rfl
@[simp] theorem State.record_status (s : State) (e : BlockError) : (s.record e).status = e.status := rfl
@[simp] theorem State.record_errReceived (s : State) (e : BlockError) : (s.record e).errReceived = e.received := rfl
@[simp] theorem State.record_errExpected (s : State) (e : BlockError) : (s.record e).errExpected = e.expected := rfl
@[simp] theorem State.record_errIndex (s : State) (e : BlockError) : (s.record e).errIndex = e.index := rfl
@[simp] theorem State.record_busHeld (s : State) (e : BlockError) : (s.record e).busHeld = s.busHeld := rfl
@[simp] theorem State.record_busReleased (s : State) (e : BlockError) : (s.record e).busReleased = s.busReleased := rfl
@[simp] theorem State.record_addr (s : State) (e : BlockError) : (s.record e).addr = s.addr := rfl
@[simp] theorem State.record_polls (s : State) (e : BlockError) : (s.record e).polls = s.polls := rfl
@[simp] theorem State.record_serialIdLegacy (s : State) (e : BlockError) : (s.record e).serialIdLegacy = s.serialIdLegacy := rfl
@[simp] theorem State.record_roundTies (s : State) (e : BlockError) : (s.record e).roundTies = s.roundTies := rfl
@[simp] theorem State.record_requests (s : State) (e : BlockError) : (s.record e).requests = s.requests := rfl
@[simp] theorem State.record_writeAnswers (s : State) (e : BlockError) : (s.record e).writeAnswers = s.writeAnswers := rfl
@[simp] theorem State.record_readAnswers (s : State) (e : BlockError) : (s.record e).readAnswers = s.readAnswers := rfl
@[simp] theorem State.record_resetLine (s : State) (e : BlockError) : (s.record e).resetLine = s.resetLine := rfl
@[simp] theorem State.record_stalled (s : State) (e : BlockError) : (s.record e).stalled = s.stalled := rfl
@[simp] theorem State.record_events (s : State) (e : BlockError) : (s.record e).events = s.events := rfl
@[simp] theorem State.record_returned (s : State) (e : BlockError) : (s.record e).returned = s.returned := rfl

/-! ## State.runChecksum -/

@[simp] theorem State.runChecksum_p (s : State) (v : Word) : (s.runChecksum v).p = s.p := rfl
@[simp] theorem State.runChecksum_w (s : State) (v : Word) : (s.runChecksum v).w = s.w := rfl
@[simp] theorem State.runChecksum_gi (s : State) (v : Word) : (s.runChecksum v).gi = s.gi := rfl
@[simp] theorem State.runChecksum_acc (s : State) (v : Word) : (s.runChecksum v).acc = checksum v := rfl
@[simp] theorem State.runChecksum_desc (s : State) (v : Word) : (s.runChecksum v).desc = s.desc := rfl
@[simp] theorem State.runChecksum_rc (s : State) (v : Word) : (s.runChecksum v).rc = s.rc := rfl
@[simp] theorem State.runChecksum_txbuf (s : State) (v : Word) : (s.runChecksum v).txbuf = s.txbuf := rfl
@[simp] theorem State.runChecksum_txlen (s : State) (v : Word) : (s.runChecksum v).txlen = s.txlen := rfl
@[simp] theorem State.runChecksum_rxbuf (s : State) (v : Word) : (s.runChecksum v).rxbuf = s.rxbuf := rfl
@[simp] theorem State.runChecksum_rxlen (s : State) (v : Word) : (s.runChecksum v).rxlen = s.rxlen := rfl
@[simp] theorem State.runChecksum_status (s : State) (v : Word) : (s.runChecksum v).status = s.status := rfl
@[simp] theorem State.runChecksum_errReceived (s : State) (v : Word) : (s.runChecksum v).errReceived = s.errReceived := rfl
@[simp] theorem State.runChecksum_errExpected (s : State) (v : Word) : (s.runChecksum v).errExpected = s.errExpected := rfl
@[simp] theorem State.runChecksum_errIndex (s : State) (v : Word) : (s.runChecksum v).errIndex = s.errIndex := rfl
@[simp] theorem State.runChecksum_busHeld (s : State) (v : Word) : (s.runChecksum v).busHeld = s.busHeld := rfl
@[simp] theorem State.runChecksum_busReleased (s : State) (v : Word) : (s.runChecksum v).busReleased = s.busReleased := rfl
@[simp] theorem State.runChecksum_addr (s : State) (v : Word) : (s.runChecksum v).addr = s.addr := rfl
@[simp] theorem State.runChecksum_polls (s : State) (v : Word) : (s.runChecksum v).polls = s.polls := rfl
@[simp] theorem State.runChecksum_serialIdLegacy (s : State) (v : Word) : (s.runChecksum v).serialIdLegacy = s.serialIdLegacy := rfl
@[simp] theorem State.runChecksum_roundTies (s : State) (v : Word) : (s.runChecksum v).roundTies = s.roundTies := rfl
@[simp] theorem State.runChecksum_requests (s : State) (v : Word) : (s.runChecksum v).requests = s.requests := rfl
@[simp] theorem State.runChecksum_writeAnswers (s : State) (v : Word) : (s.runChecksum v).writeAnswers = s.writeAnswers := rfl
@[simp] theorem State.runChecksum_readAnswers (s : State) (v : Word) : (s.runChecksum v).readAnswers = s.readAnswers := rfl
@[simp] theorem State.runChecksum_resetLine (s : State) (v : Word) : (s.runChecksum v).resetLine = s.resetLine := rfl
@[simp] theorem State.runChecksum_stalled (s : State) (v : Word) : (s.runChecksum v).stalled = s.stalled := rfl
@[simp] theorem State.runChecksum_events (s : State) (v : Word) : (s.runChecksum v).events = s.events := rfl
@[simp] theorem State.runChecksum_returned (s : State) (v : Word) : (s.runChecksum v).returned = s.returned := rfl

/-! ## State.giveBack -/

@[simp] theorem State.giveBack_p (s : State) (r : Returned) : (s.giveBack r).p = s.p := rfl
@[simp] theorem State.giveBack_w (s : State) (r : Returned) : (s.giveBack r).w = s.w := rfl
@[simp] theorem State.giveBack_gi (s : State) (r : Returned) : (s.giveBack r).gi = s.gi := rfl
@[simp] theorem State.giveBack_acc (s : State) (r : Returned) : (s.giveBack r).acc = s.acc := rfl
@[simp] theorem State.giveBack_desc (s : State) (r : Returned) : (s.giveBack r).desc = s.desc := rfl
@[simp] theorem State.giveBack_rc (s : State) (r : Returned) : (s.giveBack r).rc = s.rc := rfl
@[simp] theorem State.giveBack_txbuf (s : State) (r : Returned) : (s.giveBack r).txbuf = s.txbuf := rfl
@[simp] theorem State.giveBack_txlen (s : State) (r : Returned) : (s.giveBack r).txlen = s.txlen := rfl
@[simp] theorem State.giveBack_rxbuf (s : State) (r : Returned) : (s.giveBack r).rxbuf = s.rxbuf := rfl
@[simp] theorem State.giveBack_rxlen (s : State) (r : Returned) : (s.giveBack r).rxlen = s.rxlen := rfl
@[simp] theorem State.giveBack_status (s : State) (r : Returned) : (s.giveBack r).status = s.status := rfl
@[simp] theorem State.giveBack_errReceived (s : State) (r : Returned) : (s.giveBack r).errReceived = s.errReceived := rfl
@[simp] theorem State.giveBack_errExpected (s : State) (r : Returned) : (s.giveBack r).errExpected = s.errExpected := rfl
@[simp] theorem State.giveBack_errIndex (s : State) (r : Returned) : (s.giveBack r).errIndex = s.errIndex := rfl
@[simp] theorem State.giveBack_busHeld (s : State) (r : Returned) : (s.giveBack r).busHeld = s.busHeld := rfl
@[simp] theorem State.giveBack_busReleased (s : State) (r : Returned) : (s.giveBack r).busReleased = s.busReleased := rfl
@[simp] theorem State.giveBack_addr (s : State) (r : Returned) : (s.giveBack r).addr = s.addr := rfl
@[simp] theorem State.giveBack_polls (s : State) (r : Returned) : (s.giveBack r).polls = s.polls := rfl
@[simp] theorem State.giveBack_serialIdLegacy (s : State) (r : Returned) : (s.giveBack r).serialIdLegacy = s.serialIdLegacy := rfl
@[simp] theorem State.giveBack_roundTies (s : State) (r : Returned) : (s.giveBack r).roundTies = s.roundTies := rfl
@[simp] theorem State.giveBack_requests (s : State) (r : Returned) : (s.giveBack r).requests = s.requests := rfl
@[simp] theorem State.giveBack_writeAnswers (s : State) (r : Returned) : (s.giveBack r).writeAnswers = s.writeAnswers := rfl
@[simp] theorem State.giveBack_readAnswers (s : State) (r : Returned) : (s.giveBack r).readAnswers = s.readAnswers := rfl
@[simp] theorem State.giveBack_resetLine (s : State) (r : Returned) : (s.giveBack r).resetLine = s.resetLine := rfl
@[simp] theorem State.giveBack_stalled (s : State) (r : Returned) : (s.giveBack r).stalled = s.stalled := rfl
@[simp] theorem State.giveBack_events (s : State) (r : Returned) : (s.giveBack r).events = s.events := rfl
@[simp] theorem State.giveBack_returned (s : State) (r : Returned) : (s.giveBack r).returned = r := rfl

/-! ## State.setPolls -/

@[simp] theorem State.setPolls_p (s : State) (n : Nat) : (s.setPolls n).p = s.p := rfl
@[simp] theorem State.setPolls_w (s : State) (n : Nat) : (s.setPolls n).w = s.w := rfl
@[simp] theorem State.setPolls_gi (s : State) (n : Nat) : (s.setPolls n).gi = s.gi := rfl
@[simp] theorem State.setPolls_acc (s : State) (n : Nat) : (s.setPolls n).acc = s.acc := rfl
@[simp] theorem State.setPolls_desc (s : State) (n : Nat) : (s.setPolls n).desc = s.desc := rfl
@[simp] theorem State.setPolls_rc (s : State) (n : Nat) : (s.setPolls n).rc = s.rc := rfl
@[simp] theorem State.setPolls_txbuf (s : State) (n : Nat) : (s.setPolls n).txbuf = s.txbuf := rfl
@[simp] theorem State.setPolls_txlen (s : State) (n : Nat) : (s.setPolls n).txlen = s.txlen := rfl
@[simp] theorem State.setPolls_rxbuf (s : State) (n : Nat) : (s.setPolls n).rxbuf = s.rxbuf := rfl
@[simp] theorem State.setPolls_rxlen (s : State) (n : Nat) : (s.setPolls n).rxlen = s.rxlen := rfl
@[simp] theorem State.setPolls_status (s : State) (n : Nat) : (s.setPolls n).status = s.status := rfl
@[simp] theorem State.setPolls_errReceived (s : State) (n : Nat) : (s.setPolls n).errReceived = s.errReceived := rfl
@[simp] theorem State.setPolls_errExpected (s : State) (n : Nat) : (s.setPolls n).errExpected = s.errExpected := rfl
@[simp] theorem State.setPolls_errIndex (s : State) (n : Nat) : (s.setPolls n).errIndex = s.errIndex := rfl
@[simp] theorem State.setPolls_busHeld (s : State) (n : Nat) : (s.setPolls n).busHeld = s.busHeld := rfl
@[simp] theorem State.setPolls_busReleased (s : State) (n : Nat) : (s.setPolls n).busReleased = s.busReleased := rfl
@[simp] theorem State.setPolls_addr (s : State) (n : Nat) : (s.setPolls n).addr = s.addr := rfl
@[simp] theorem State.setPolls_polls (s : State) (n : Nat) : (s.setPolls n).polls = n := rfl
@[simp] theorem State.setPolls_serialIdLegacy (s : State) (n : Nat) : (s.setPolls n).serialIdLegacy = s.serialIdLegacy := rfl
@[simp] theorem State.setPolls_roundTies (s : State) (n : Nat) : (s.setPolls n).roundTies = s.roundTies := rfl
@[simp] theorem State.setPolls_requests (s : State) (n : Nat) : (s.setPolls n).requests = s.requests := rfl
@[simp] theorem State.setPolls_writeAnswers (s : State) (n : Nat) : (s.setPolls n).writeAnswers = s.writeAnswers := rfl
@[simp] theorem State.setPolls_readAnswers (s : State) (n : Nat) : (s.setPolls n).readAnswers = s.readAnswers := rfl
@[simp] theorem State.setPolls_resetLine (s : State) (n : Nat) : (s.setPolls n).resetLine = s.resetLine := rfl
@[simp] theorem State.setPolls_stalled (s : State) (n : Nat) : (s.setPolls n).stalled = s.stalled := rfl
@[simp] theorem State.setPolls_events (s : State) (n : Nat) : (s.setPolls n).events = s.events := rfl
@[simp] theorem State.setPolls_returned (s : State) (n : Nat) : (s.setPolls n).returned = s.returned := rfl

/-! ## State.setRequests -/

@[simp] theorem State.setRequests_p (s : State) (rs : List Request) : (s.setRequests rs).p = s.p := rfl
@[simp] theorem State.setRequests_w (s : State) (rs : List Request) : (s.setRequests rs).w = s.w := rfl
@[simp] theorem State.setRequests_gi (s : State) (rs : List Request) : (s.setRequests rs).gi = s.gi := rfl
@[simp] theorem State.setRequests_acc (s : State) (rs : List Request) : (s.setRequests rs).acc = s.acc := rfl
@[simp] theorem State.setRequests_desc (s : State) (rs : List Request) : (s.setRequests rs).desc = s.desc := rfl
@[simp] theorem State.setRequests_rc (s : State) (rs : List Request) : (s.setRequests rs).rc = s.rc := rfl
@[simp] theorem State.setRequests_txbuf (s : State) (rs : List Request) : (s.setRequests rs).txbuf = s.txbuf := rfl
@[simp] theorem State.setRequests_txlen (s : State) (rs : List Request) : (s.setRequests rs).txlen = s.txlen := rfl
@[simp] theorem State.setRequests_rxbuf (s : State) (rs : List Request) : (s.setRequests rs).rxbuf = s.rxbuf := rfl
@[simp] theorem State.setRequests_rxlen (s : State) (rs : List Request) : (s.setRequests rs).rxlen = s.rxlen := rfl
@[simp] theorem State.setRequests_status (s : State) (rs : List Request) : (s.setRequests rs).status = s.status := rfl
@[simp] theorem State.setRequests_errReceived (s : State) (rs : List Request) : (s.setRequests rs).errReceived = s.errReceived := rfl
@[simp] theorem State.setRequests_errExpected (s : State) (rs : List Request) : (s.setRequests rs).errExpected = s.errExpected := rfl
@[simp] theorem State.setRequests_errIndex (s : State) (rs : List Request) : (s.setRequests rs).errIndex = s.errIndex := rfl
@[simp] theorem State.setRequests_busHeld (s : State) (rs : List Request) : (s.setRequests rs).busHeld = s.busHeld := rfl
@[simp] theorem State.setRequests_busReleased (s : State) (rs : List Request) : (s.setRequests rs).busReleased = s.busReleased := rfl
@[simp] theorem State.setRequests_addr (s : State) (rs : List Request) : (s.setRequests rs).addr = s.addr := rfl
@[simp] theorem State.setRequests_polls (s : State) (rs : List Request) : (s.setRequests rs).polls = s.polls := rfl
@[simp] theorem State.setRequests_serialIdLegacy (s : State) (rs : List Request) : (s.setRequests rs).serialIdLegacy = s.serialIdLegacy := rfl
@[simp] theorem State.setRequests_roundTies (s : State) (rs : List Request) : (s.setRequests rs).roundTies = s.roundTies := rfl
@[simp] theorem State.setRequests_requests (s : State) (rs : List Request) : (s.setRequests rs).requests = rs := rfl
@[simp] theorem State.setRequests_writeAnswers (s : State) (rs : List Request) : (s.setRequests rs).writeAnswers = s.writeAnswers := rfl
@[simp] theorem State.setRequests_readAnswers (s : State) (rs : List Request) : (s.setRequests rs).readAnswers = s.readAnswers := rfl
@[simp] theorem State.setRequests_resetLine (s : State) (rs : List Request) : (s.setRequests rs).resetLine = s.resetLine := rfl
@[simp] theorem State.setRequests_stalled (s : State) (rs : List Request) : (s.setRequests rs).stalled = s.stalled := rfl
@[simp] theorem State.setRequests_events (s : State) (rs : List Request) : (s.setRequests rs).events = s.events := rfl
@[simp] theorem State.setRequests_returned (s : State) (rs : List Request) : (s.setRequests rs).returned = s.returned := rfl

/-! ## State.setWriteAnswers -/

@[simp] theorem State.setWriteAnswers_p (s : State) (wa : List WriteAnswer) : (s.setWriteAnswers wa).p = s.p := rfl
@[simp] theorem State.setWriteAnswers_w (s : State) (wa : List WriteAnswer) : (s.setWriteAnswers wa).w = s.w := rfl
@[simp] theorem State.setWriteAnswers_gi (s : State) (wa : List WriteAnswer) : (s.setWriteAnswers wa).gi = s.gi := rfl
@[simp] theorem State.setWriteAnswers_acc (s : State) (wa : List WriteAnswer) : (s.setWriteAnswers wa).acc = s.acc := rfl
@[simp] theorem State.setWriteAnswers_desc (s : State) (wa : List WriteAnswer) : (s.setWriteAnswers wa).desc = s.desc := rfl
@[simp] theorem State.setWriteAnswers_rc (s : State) (wa : List WriteAnswer) : (s.setWriteAnswers wa).rc = s.rc := rfl
@[simp] theorem State.setWriteAnswers_txbuf (s : State) (wa : List WriteAnswer) : (s.setWriteAnswers wa).txbuf = s.txbuf := rfl
@[simp] theorem State.setWriteAnswers_txlen (s : State) (wa : List WriteAnswer) : (s.setWriteAnswers wa).txlen = s.txlen := rfl
@[simp] theorem State.setWriteAnswers_rxbuf (s : State) (wa : List WriteAnswer) : (s.setWriteAnswers wa).rxbuf = s.rxbuf := rfl
@[simp] theorem State.setWriteAnswers_rxlen (s : State) (wa : List WriteAnswer) : (s.setWriteAnswers wa).rxlen = s.rxlen := rfl
@[simp] theorem State.setWriteAnswers_status (s : State) (wa : List WriteAnswer) : (s.setWriteAnswers wa).status = s.status := rfl
@[simp] theorem State.setWriteAnswers_errReceived (s : State) (wa : List WriteAnswer) : (s.setWriteAnswers wa).errReceived = s.errReceived := rfl
@[simp] theorem State.setWriteAnswers_errExpected (s : State) (wa : List WriteAnswer) : (s.setWriteAnswers wa).errExpected = s.errExpected := rfl
@[simp] theorem State.setWriteAnswers_errIndex (s : State) (wa : List WriteAnswer) : (s.setWriteAnswers wa).errIndex = s.errIndex := rfl
@[simp] theorem State.setWriteAnswers_busHeld (s : State) (wa : List WriteAnswer) : (s.setWriteAnswers wa).busHeld = s.busHeld := rfl
@[simp] theorem State.setWriteAnswers_busReleased (s : State) (wa : List WriteAnswer) : (s.setWriteAnswers wa).busReleased = s.busReleased := rfl
@[simp] theorem State.setWriteAnswers_addr (s : State) (wa : List WriteAnswer) : (s.setWriteAnswers wa).addr = s.addr := rfl
@[simp] theorem State.setWriteAnswers_polls (s : State) (wa : List WriteAnswer) : (s.setWriteAnswers wa).polls = s.polls := rfl
@[simp] theorem State.setWriteAnswers_serialIdLegacy (s : State) (wa : List WriteAnswer) : (s.setWriteAnswers wa).serialIdLegacy = s.serialIdLegacy := rfl
@[simp] theorem State.setWriteAnswers_roundTies (s : State) (wa : List WriteAnswer) : (s.setWriteAnswers wa).roundTies = s.roundTies := rfl
@[simp] theorem State.setWriteAnswers_requests (s : State) (wa : List WriteAnswer) : (s.setWriteAnswers wa).requests = s.requests := rfl
@[simp] theorem State.setWriteAnswers_writeAnswers (s : State) (wa : List WriteAnswer) : (s.setWriteAnswers wa).writeAnswers = wa := rfl
@[simp] theorem State.setWriteAnswers_readAnswers (s : State) (wa : List WriteAnswer) : (s.setWriteAnswers wa).readAnswers = s.readAnswers := rfl
@[simp] theorem State.setWriteAnswers_resetLine (s : State) (wa : List WriteAnswer) : (s.setWriteAnswers wa).resetLine = s.resetLine := rfl
@[simp] theorem State.setWriteAnswers_stalled (s : State) (wa : List WriteAnswer) : (s.setWriteAnswers wa).stalled = s.stalled := rfl
@[simp] theorem State.setWriteAnswers_events (s : State) (wa : List WriteAnswer) : (s.setWriteAnswers wa).events = s.events := rfl
@[simp] theorem State.setWriteAnswers_returned (s : State) (wa : List WriteAnswer) : (s.setWriteAnswers wa).returned = s.returned := rfl

/-! ## State.setReadAnswers -/

@[simp] theorem State.setReadAnswers_p (s : State) (ra : List ReadAnswer) : (s.setReadAnswers ra).p = s.p := rfl
@[simp] theorem State.setReadAnswers_w (s : State) (ra : List ReadAnswer) : (s.setReadAnswers ra).w = s.w := rfl
@[simp] theorem State.setReadAnswers_gi (s : State) (ra : List ReadAnswer) : (s.setReadAnswers ra).gi = s.gi := rfl
@[simp] theorem State.setReadAnswers_acc (s : State) (ra : List ReadAnswer) : (s.setReadAnswers ra).acc = s.acc := rfl
@[simp] theorem State.setReadAnswers_desc (s : State) (ra : List ReadAnswer) : (s.setReadAnswers ra).desc = s.desc := rfl
@[simp] theorem State.setReadAnswers_rc (s : State) (ra : List ReadAnswer) : (s.setReadAnswers ra).rc = s.rc := rfl
@[simp] theorem State.setReadAnswers_txbuf (s : State) (ra : List ReadAnswer) : (s.setReadAnswers ra).txbuf = s.txbuf := rfl
@[simp] theorem State.setReadAnswers_txlen (s : State) (ra : List ReadAnswer) : (s.setReadAnswers ra).txlen = s.txlen := rfl
@[simp] theorem State.setReadAnswers_rxbuf (s : State) (ra : List ReadAnswer) : (s.setReadAnswers ra).rxbuf = s.rxbuf := rfl
@[simp] theorem State.setReadAnswers_rxlen (s : State) (ra : List ReadAnswer) : (s.setReadAnswers ra).rxlen = s.rxlen := rfl
@[simp] theorem State.setReadAnswers_status (s : State) (ra : List ReadAnswer) : (s.setReadAnswers ra).status = s.status := rfl
@[simp] theorem State.setReadAnswers_errReceived (s : State) (ra : List ReadAnswer) : (s.setReadAnswers ra).errReceived = s.errReceived := rfl
@[simp] theorem State.setReadAnswers_errExpected (s : State) (ra : List ReadAnswer) : (s.setReadAnswers ra).errExpected = s.errExpected := rfl
@[simp] theorem State.setReadAnswers_errIndex (s : State) (ra : List ReadAnswer) : (s.setReadAnswers ra).errIndex = s.errIndex := rfl
@[simp] theorem State.setReadAnswers_busHeld (s : State) (ra : List ReadAnswer) : (s.setReadAnswers ra).busHeld = s.busHeld := rfl
@[simp] theorem State.setReadAnswers_busReleased (s : State) (ra : List ReadAnswer) : (s.setReadAnswers ra).busReleased = s.busReleased := rfl
@[simp] theorem State.setReadAnswers_addr (s : State) (ra : List ReadAnswer) : (s.setReadAnswers ra).addr = s.addr := rfl
@[simp] theorem State.setReadAnswers_polls (s : State) (ra : List ReadAnswer) : (s.setReadAnswers ra).polls = s.polls := rfl
@[simp] theorem State.setReadAnswers_serialIdLegacy (s : State) (ra : List ReadAnswer) : (s.setReadAnswers ra).serialIdLegacy = s.serialIdLegacy := rfl
@[simp] theorem State.setReadAnswers_roundTies (s : State) (ra : List ReadAnswer) : (s.setReadAnswers ra).roundTies = s.roundTies := rfl
@[simp] theorem State.setReadAnswers_requests (s : State) (ra : List ReadAnswer) : (s.setReadAnswers ra).requests = s.requests := rfl
@[simp] theorem State.setReadAnswers_writeAnswers (s : State) (ra : List ReadAnswer) : (s.setReadAnswers ra).writeAnswers = s.writeAnswers := rfl
@[simp] theorem State.setReadAnswers_readAnswers (s : State) (ra : List ReadAnswer) : (s.setReadAnswers ra).readAnswers = ra := rfl
@[simp] theorem State.setReadAnswers_resetLine (s : State) (ra : List ReadAnswer) : (s.setReadAnswers ra).resetLine = s.resetLine := rfl
@[simp] theorem State.setReadAnswers_stalled (s : State) (ra : List ReadAnswer) : (s.setReadAnswers ra).stalled = s.stalled := rfl
@[simp] theorem State.setReadAnswers_events (s : State) (ra : List ReadAnswer) : (s.setReadAnswers ra).events = s.events := rfl
@[simp] theorem State.setReadAnswers_returned (s : State) (ra : List ReadAnswer) : (s.setReadAnswers ra).returned = s.returned := rfl

/-! ## State.stall -/

@[simp] theorem State.stall_p (s : State) (x : Exchange) : (s.stall x).p = s.p := rfl
@[simp] theorem State.stall_w (s : State) (x : Exchange) : (s.stall x).w = s.w := rfl
@[simp] theorem State.stall_gi (s : State) (x : Exchange) : (s.stall x).gi = s.gi := rfl
@[simp] theorem State.stall_acc (s : State) (x : Exchange) : (s.stall x).acc = s.acc := rfl
@[simp] theorem State.stall_desc (s : State) (x : Exchange) : (s.stall x).desc = s.desc := rfl
@[simp] theorem State.stall_rc (s : State) (x : Exchange) : (s.stall x).rc = s.rc := rfl
@[simp] theorem State.stall_txbuf (s : State) (x : Exchange) : (s.stall x).txbuf = s.txbuf := rfl
@[simp] theorem State.stall_txlen (s : State) (x : Exchange) : (s.stall x).txlen = s.txlen := rfl
@[simp] theorem State.stall_rxbuf (s : State) (x : Exchange) : (s.stall x).rxbuf = s.rxbuf := rfl
@[simp] theorem State.stall_rxlen (s : State) (x : Exchange) : (s.stall x).rxlen = s.rxlen := rfl
@[simp] theorem State.stall_status (s : State) (x : Exchange) : (s.stall x).status = s.status := rfl
@[simp] theorem State.stall_errReceived (s : State) (x : Exchange) : (s.stall x).errReceived = s.errReceived := rfl
@[simp] theorem State.stall_errExpected (s : State) (x : Exchange) : (s.stall x).errExpected = s.errExpected := rfl
@[simp] theorem State.stall_errIndex (s : State) (x : Exchange) : (s.stall x).errIndex = s.errIndex := rfl
@[simp] theorem State.stall_busHeld (s : State) (x : Exchange) : (s.stall x).busHeld = s.busHeld := rfl
@[simp] theorem State.stall_busReleased (s : State) (x : Exchange) : (s.stall x).busReleased = s.busReleased := rfl
@[simp] theorem State.stall_addr (s : State) (x : Exchange) : (s.stall x).addr = s.addr := rfl
@[simp] theorem State.stall_polls (s : State) (x : Exchange) : (s.stall x).polls = s.polls := rfl
@[simp] theorem State.stall_serialIdLegacy (s : State) (x : Exchange) : (s.stall x).serialIdLegacy = s.serialIdLegacy := rfl
@[simp] theorem State.stall_roundTies (s : State) (x : Exchange) : (s.stall x).roundTies = s.roundTies := rfl
@[simp] theorem State.stall_requests (s : State) (x : Exchange) : (s.stall x).requests = s.requests := rfl
@[simp] theorem State.stall_writeAnswers (s : State) (x : Exchange) : (s.stall x).writeAnswers = s.writeAnswers := rfl
@[simp] theorem State.stall_readAnswers (s : State) (x : Exchange) : (s.stall x).readAnswers = s.readAnswers := rfl
@[simp] theorem State.stall_resetLine (s : State) (x : Exchange) : (s.stall x).resetLine = s.resetLine := rfl
@[simp] theorem State.stall_stalled (s : State) (x : Exchange) : (s.stall x).stalled = some x := rfl
@[simp] theorem State.stall_events (s : State) (x : Exchange) : (s.stall x).events = s.events := rfl
@[simp] theorem State.stall_returned (s : State) (x : Exchange) : (s.stall x).returned = s.returned := rfl

/-! ## State.emit -/

@[simp] theorem State.emit_p (s : State) (e : Event) : (s.emit e).p = s.p := rfl
@[simp] theorem State.emit_w (s : State) (e : Event) : (s.emit e).w = s.w := rfl
@[simp] theorem State.emit_gi (s : State) (e : Event) : (s.emit e).gi = s.gi := rfl
@[simp] theorem State.emit_acc (s : State) (e : Event) : (s.emit e).acc = s.acc := rfl
@[simp] theorem State.emit_desc (s : State) (e : Event) : (s.emit e).desc = s.desc := rfl
@[simp] theorem State.emit_rc (s : State) (e : Event) : (s.emit e).rc = s.rc := rfl
@[simp] theorem State.emit_txbuf (s : State) (e : Event) : (s.emit e).txbuf = s.txbuf := rfl
@[simp] theorem State.emit_txlen (s : State) (e : Event) : (s.emit e).txlen = s.txlen := rfl
@[simp] theorem State.emit_rxbuf (s : State) (e : Event) : (s.emit e).rxbuf = s.rxbuf := rfl
@[simp] theorem State.emit_rxlen (s : State) (e : Event) : (s.emit e).rxlen = s.rxlen := rfl
@[simp] theorem State.emit_status (s : State) (e : Event) : (s.emit e).status = s.status := rfl
@[simp] theorem State.emit_errReceived (s : State) (e : Event) : (s.emit e).errReceived = s.errReceived := rfl
@[simp] theorem State.emit_errExpected (s : State) (e : Event) : (s.emit e).errExpected = s.errExpected := rfl
@[simp] theorem State.emit_errIndex (s : State) (e : Event) : (s.emit e).errIndex = s.errIndex := rfl
@[simp] theorem State.emit_busHeld (s : State) (e : Event) : (s.emit e).busHeld = s.busHeld := rfl
@[simp] theorem State.emit_busReleased (s : State) (e : Event) : (s.emit e).busReleased = s.busReleased := rfl
@[simp] theorem State.emit_addr (s : State) (e : Event) : (s.emit e).addr = s.addr := rfl
@[simp] theorem State.emit_polls (s : State) (e : Event) : (s.emit e).polls = s.polls := rfl
@[simp] theorem State.emit_serialIdLegacy (s : State) (e : Event) : (s.emit e).serialIdLegacy = s.serialIdLegacy := rfl
@[simp] theorem State.emit_roundTies (s : State) (e : Event) : (s.emit e).roundTies = s.roundTies := rfl
@[simp] theorem State.emit_requests (s : State) (e : Event) : (s.emit e).requests = s.requests := rfl
@[simp] theorem State.emit_writeAnswers (s : State) (e : Event) : (s.emit e).writeAnswers = s.writeAnswers := rfl
@[simp] theorem State.emit_readAnswers (s : State) (e : Event) : (s.emit e).readAnswers = s.readAnswers := rfl
@[simp] theorem State.emit_resetLine (s : State) (e : Event) : (s.emit e).resetLine = s.resetLine := rfl
@[simp] theorem State.emit_stalled (s : State) (e : Event) : (s.emit e).stalled = s.stalled := rfl
@[simp] theorem State.emit_events (s : State) (e : Event) : (s.emit e).events = s.events ++ [e] := rfl
@[simp] theorem State.emit_returned (s : State) (e : Event) : (s.emit e).returned = s.returned := rfl

/-! ## State.pass -/

@[simp] theorem State.pass_p (s : State) (n : Nat) : (s.pass n).p = s.p := rfl
@[simp] theorem State.pass_w (s : State) (n : Nat) : (s.pass n).w = s.w := rfl
@[simp] theorem State.pass_gi (s : State) (n : Nat) : (s.pass n).gi = s.gi := rfl
@[simp] theorem State.pass_acc (s : State) (n : Nat) : (s.pass n).acc = s.acc := rfl
@[simp] theorem State.pass_desc (s : State) (n : Nat) : (s.pass n).desc = s.desc := rfl
@[simp] theorem State.pass_rc (s : State) (n : Nat) : (s.pass n).rc = s.rc := rfl
@[simp] theorem State.pass_txbuf (s : State) (n : Nat) : (s.pass n).txbuf = s.txbuf := rfl
@[simp] theorem State.pass_txlen (s : State) (n : Nat) : (s.pass n).txlen = s.txlen := rfl
@[simp] theorem State.pass_rxbuf (s : State) (n : Nat) : (s.pass n).rxbuf = s.rxbuf := rfl
@[simp] theorem State.pass_rxlen (s : State) (n : Nat) : (s.pass n).rxlen = s.rxlen := rfl
@[simp] theorem State.pass_status (s : State) (n : Nat) : (s.pass n).status = s.status := rfl
@[simp] theorem State.pass_errReceived (s : State) (n : Nat) : (s.pass n).errReceived = s.errReceived := rfl
@[simp] theorem State.pass_errExpected (s : State) (n : Nat) : (s.pass n).errExpected = s.errExpected := rfl
@[simp] theorem State.pass_errIndex (s : State) (n : Nat) : (s.pass n).errIndex = s.errIndex := rfl
@[simp] theorem State.pass_busHeld (s : State) (n : Nat) : (s.pass n).busHeld = s.busHeld := rfl
@[simp] theorem State.pass_busReleased (s : State) (n : Nat) : (s.pass n).busReleased = s.busReleased := rfl
@[simp] theorem State.pass_addr (s : State) (n : Nat) : (s.pass n).addr = s.addr := rfl
@[simp] theorem State.pass_polls (s : State) (n : Nat) : (s.pass n).polls = s.polls := rfl
@[simp] theorem State.pass_serialIdLegacy (s : State) (n : Nat) : (s.pass n).serialIdLegacy = s.serialIdLegacy := rfl
@[simp] theorem State.pass_roundTies (s : State) (n : Nat) : (s.pass n).roundTies = s.roundTies := rfl
@[simp] theorem State.pass_requests (s : State) (n : Nat) : (s.pass n).requests = s.requests := rfl
@[simp] theorem State.pass_writeAnswers (s : State) (n : Nat) : (s.pass n).writeAnswers = s.writeAnswers := rfl
@[simp] theorem State.pass_readAnswers (s : State) (n : Nat) : (s.pass n).readAnswers = s.readAnswers := rfl
@[simp] theorem State.pass_resetLine (s : State) (n : Nat) : (s.pass n).resetLine = s.resetLine.drop n := rfl
@[simp] theorem State.pass_stalled (s : State) (n : Nat) : (s.pass n).stalled = s.stalled := rfl
@[simp] theorem State.pass_events (s : State) (n : Nat) : (s.pass n).events = s.events := rfl
@[simp] theorem State.pass_returned (s : State) (n : Nat) : (s.pass n).returned = s.returned := rfl

/-! ## resetBlock -/

@[simp] theorem resetBlock_p (s : State) : (resetBlock s).p = State.reset.p := rfl
@[simp] theorem resetBlock_w (s : State) : (resetBlock s).w = State.reset.w := rfl
@[simp] theorem resetBlock_gi (s : State) : (resetBlock s).gi = State.reset.gi := rfl
@[simp] theorem resetBlock_acc (s : State) : (resetBlock s).acc = State.reset.acc := rfl
@[simp] theorem resetBlock_desc (s : State) : (resetBlock s).desc = State.reset.desc := rfl
@[simp] theorem resetBlock_rc (s : State) : (resetBlock s).rc = State.reset.rc := rfl
@[simp] theorem resetBlock_txbuf (s : State) : (resetBlock s).txbuf = State.reset.txbuf := rfl
@[simp] theorem resetBlock_txlen (s : State) : (resetBlock s).txlen = State.reset.txlen := rfl
@[simp] theorem resetBlock_rxbuf (s : State) : (resetBlock s).rxbuf = State.reset.rxbuf := rfl
@[simp] theorem resetBlock_rxlen (s : State) : (resetBlock s).rxlen = State.reset.rxlen := rfl
@[simp] theorem resetBlock_status (s : State) : (resetBlock s).status = State.reset.status := rfl
@[simp] theorem resetBlock_errReceived (s : State) : (resetBlock s).errReceived = State.reset.errReceived := rfl
@[simp] theorem resetBlock_errExpected (s : State) : (resetBlock s).errExpected = State.reset.errExpected := rfl
@[simp] theorem resetBlock_errIndex (s : State) : (resetBlock s).errIndex = State.reset.errIndex := rfl
@[simp] theorem resetBlock_busHeld (s : State) : (resetBlock s).busHeld = s.busHeld := rfl
@[simp] theorem resetBlock_busReleased (s : State) : (resetBlock s).busReleased = s.busReleased := rfl
@[simp] theorem resetBlock_addr (s : State) : (resetBlock s).addr = s.addr := rfl
@[simp] theorem resetBlock_polls (s : State) : (resetBlock s).polls = s.polls := rfl
@[simp] theorem resetBlock_serialIdLegacy (s : State) : (resetBlock s).serialIdLegacy = s.serialIdLegacy := rfl
@[simp] theorem resetBlock_roundTies (s : State) : (resetBlock s).roundTies = s.roundTies := rfl
@[simp] theorem resetBlock_requests (s : State) : (resetBlock s).requests = s.requests := rfl
@[simp] theorem resetBlock_writeAnswers (s : State) : (resetBlock s).writeAnswers = s.writeAnswers := rfl
@[simp] theorem resetBlock_readAnswers (s : State) : (resetBlock s).readAnswers = s.readAnswers := rfl
@[simp] theorem resetBlock_resetLine (s : State) : (resetBlock s).resetLine = s.resetLine := rfl
@[simp] theorem resetBlock_stalled (s : State) : (resetBlock s).stalled = s.stalled := rfl
@[simp] theorem resetBlock_events (s : State) : (resetBlock s).events = s.events := rfl
@[simp] theorem resetBlock_returned (s : State) : (resetBlock s).returned = s.returned := rfl

/-! ## State.idlePoint: the host's fields -/

@[simp] theorem State.idlePoint_busHeld (s : State) : s.idlePoint.busHeld = s.busHeld := by
  unfold State.idlePoint; split <;> rfl
@[simp] theorem State.idlePoint_busReleased (s : State) : s.idlePoint.busReleased = s.busReleased := by
  unfold State.idlePoint; split <;> rfl
@[simp] theorem State.idlePoint_addr (s : State) : s.idlePoint.addr = s.addr := by
  unfold State.idlePoint; split <;> rfl
@[simp] theorem State.idlePoint_polls (s : State) : s.idlePoint.polls = s.polls := by
  unfold State.idlePoint; split <;> rfl
@[simp] theorem State.idlePoint_serialIdLegacy (s : State) : s.idlePoint.serialIdLegacy = s.serialIdLegacy := by
  unfold State.idlePoint; split <;> rfl
@[simp] theorem State.idlePoint_roundTies (s : State) : s.idlePoint.roundTies = s.roundTies := by
  unfold State.idlePoint; split <;> rfl
@[simp] theorem State.idlePoint_requests (s : State) : s.idlePoint.requests = s.requests := by
  unfold State.idlePoint; split <;> rfl
@[simp] theorem State.idlePoint_writeAnswers (s : State) : s.idlePoint.writeAnswers = s.writeAnswers := by
  unfold State.idlePoint; split <;> rfl
@[simp] theorem State.idlePoint_readAnswers (s : State) : s.idlePoint.readAnswers = s.readAnswers := by
  unfold State.idlePoint; split <;> rfl
@[simp] theorem State.idlePoint_stalled (s : State) : s.idlePoint.stalled = s.stalled := by
  unfold State.idlePoint; split <;> rfl
@[simp] theorem State.idlePoint_events (s : State) : s.idlePoint.events = s.events := by
  unfold State.idlePoint; split <;> rfl
@[simp] theorem State.idlePoint_returned (s : State) : s.idlePoint.returned = s.returned := by
  unfold State.idlePoint; split <;> rfl
@[simp] theorem State.idlePoint_resetLine (s : State) : s.idlePoint.resetLine = s.resetLine.drop 1 := by
  unfold State.idlePoint; split <;> rfl

end Sys2Proof.Machine
end

