-- ==== Sys2Proof/Laws/Codec.lean ====
section
/-! SUPPORT. What each operation of the block can do, said once (spec/41_registry.md R80, spec/42_codec.md R100 to R107):
LOOKUP, ENCODE and DECODE as equations between the register machine and values. -/

namespace Sys2Proof.Machine

/-! ## LOOKUP -/

/-- LOOKUP writes STATUS and the error record only, and answers from the registry alone. -/
theorem lookupResult_cases (found : Option Descriptor) (s : State) :
    (∃ d, found = some d ∧ lookupResult found s = .done d s.complete) ∨
      (found = none ∧ lookupResult found s = .raised (.block .unknownCommand) (s.record .unknownCommand)) := by
  cases found with
  | none => exact .inr ⟨rfl, rfl⟩
  | some d => exact .inl ⟨d, rfl, rfl⟩

theorem registryBySelector_command (c : Command) : registryBySelector c.selector = some c.descriptor := by
  cases c <;> rfl

theorem registryByName_command (c : Command) : registryByName c.descriptor.name = some c.descriptor := by
  cases c <;> decide

theorem opLookupSelector_command (c : Command) (s : State) :
    opLookupSelector c.selector s = .done c.descriptor s.complete := by
  simp [opLookupSelector, registryBySelector_command, lookupResult]

/-! ## ENCODE -/

theorem readP_eq {s : State} {i : Nat} (h : i < s.p.length) : s.readP i = .ok s.p[i] := by
  simp [State.readP, List.getElem?_eq_getElem h]

/-- `MemWrite(a, 1, v)` at the end of what TXBUF already holds. -/
theorem memWrite1_end {s : State} {pre : List Byte} {a : Nat} (h : s.txbuf = Memory.ofBytes pre)
    (ha : a = pre.length) (ht : a < s.txlen) (v : Byte) :
    s.memWrite1 a v = .ok { s with txbuf := Memory.ofBytes (pre ++ [v]) } := by
  simp only [State.memWrite1, if_pos ht, h, Memory.ofBytes_write_end ha]

/-- `MemWrite(a, 2, v)` at the end of what TXBUF already holds. -/
theorem memWrite2_end {s : State} {pre : List Byte} {a : Nat} (h : s.txbuf = Memory.ofBytes pre)
    (ha : a = pre.length) (ht : a + 1 < s.txlen) (v : Word) :
    s.memWrite2 a v = .ok { s with txbuf := Memory.ofBytes (pre ++ [hi8 v, lo8 v]) } := by
  have h1 : (pre ++ [hi8 v]).length = a + 1 := by simp [ha]
  simp only [State.memWrite2, memWrite1_end h ha (by omega)]
  rw [memWrite1_end (pre := pre ++ [hi8 v]) rfl h1.symm (by exact ht)]
  simp

/-- The loop of ENCODE appends one group per parameter still to write. -/
theorem encodeLoop_eq (n : Nat) (s : State) (pre : List Byte) (h : s.txbuf = Memory.ofBytes pre)
    (hpre : pre.length = 2 + 3 * s.gi) (hn : s.p.length = s.gi + n) (ht : s.txlen = 2 + 3 * s.p.length) :
    encodeLoop n s =
      .ok { s with
        txbuf := Memory.ofBytes (pre ++ groups (s.p.drop s.gi))
        gi := s.p.length
        acc := lastChecksum s.acc (s.p.drop s.gi) } := by
  induction n generalizing s pre with
  | zero =>
    have hgi : s.gi = s.p.length := by omega
    simp [encodeLoop, hgi, groups, lastChecksum, ← h]
    rw [← hgi]
  | succ n ih =>
    have hlt : s.gi < s.p.length := by omega
    have h2 : (pre ++ [hi8 s.p[s.gi], lo8 s.p[s.gi]]).length = 4 + 3 * s.gi := by simp [hpre]; omega
    simp only [encodeLoop, readP_eq hlt]
    rw [memWrite2_end h hpre.symm (by omega)]
    simp only [State.runChecksum_gi, State.runChecksum_acc]
    rw [memWrite1_end (pre := pre ++ [hi8 s.p[s.gi], lo8 s.p[s.gi]]) rfl h2.symm
      (by simp only [State.runChecksum_txlen]; omega)]
    simp only [State.runChecksum]
    rw [ih _ _ rfl (by simp [hpre]; omega) (by simp; omega) (by simpa using ht)]
    rw [List.drop_eq_getElem_cons hlt]
    simp [groups, groupBytes, lastChecksum]

/-- Bytes of TXBUF read back in order. -/
theorem txSlice_ofBytes (bs : List Byte) (s : State) (h : s.txbuf = Memory.ofBytes bs) (ht : s.txlen = bs.length)
    (n a : Nat) (hn : a + n = bs.length) : s.txSlice n a = .ok (bs.drop a) := by
  induction n generalizing a with
  | zero => simp [State.txSlice, show a = bs.length by omega]
  | succ n ih =>
    have ha : a < bs.length := by omega
    simp only [State.txSlice, State.txByte, ht, if_pos ha, h, Memory.read_ofBytes, List.getElem?_eq_getElem ha]
    rw [ih (a + 1) (by omega), List.drop_eq_getElem_cons ha]

/-- ENCODE, whole: the frame and the state it leaves, or ParameterCountMismatch; it never faults. -/
theorem opEncode_eq (d : Descriptor) (ps : List Word) (s : State) :
    opEncode d ps s =
      if ps.length = d.parameterCount then .done (commandFrame d.opcode ps) (s.afterEncode d ps)
      else .raised (.block .parameterCountMismatch) (s.afterCountMismatch d ps) := by
  by_cases hc : ps.length = d.parameterCount
  · simp only [opEncode, State.np, hc, ne_eq, not_true_eq_false, if_false, if_true]
    rw [memWrite2_end (pre := []) (by rfl) (by rfl) (by simp; omega)]
    simp only [Ran.get]
    rw [← hc, encodeLoop_eq _ _ _ rfl (by simp) (by simp) (by simp)]
    simp only [List.drop_zero]
    rw [txSlice_ofBytes ([hi8 d.opcode, lo8 d.opcode] ++ groups ps) _ (by rfl) (by simp; omega) _ _ (by simp; omega)]
    rfl
  · simp only [opEncode, State.np, ne_eq, hc, not_false_eq_true, if_true, if_false]
    rfl

/-! ## DECODE -/

theorem rxByte_ofBytes {s : State} {bs : List Byte} (h : s.rxbuf = Memory.ofBytes bs) (hl : s.rxlen = bs.length)
    {a : Nat} (ha : a < bs.length) : s.rxByte a = .ok bs[a] := by
  simp [State.rxByte, hl, ha, h, Memory.read_ofBytes]

/-- One round of the loop of DECODE on a frame whose first `gi` groups take `pre`. -/
theorem decodeLoop_succ {s : State} {pre rest : List Byte} {b0 b1 c : Byte}
    (h : s.rxbuf = Memory.ofBytes (pre ++ b0 :: b1 :: c :: rest))
    (hl : s.rxlen = (pre ++ b0 :: b1 :: c :: rest).length) (hpre : pre.length = 3 * s.gi) (n : Nat) (ws : List Word) :
    decodeLoop (n + 1) ws s =
      if c = checksum (assemble b0 b1) then
        decodeLoop n (ws ++ [assemble b0 b1])
          { s with acc := checksum (assemble b0 b1), gi := s.gi + 1 }
      else
        .raise (.checksumMismatch c (checksum (assemble b0 b1)) s.gi) (s.runChecksum (assemble b0 b1)) := by
  have e0 : s.rxByte (3 * s.gi) = .ok b0 := by
    rw [rxByte_ofBytes h hl (by simp; omega)]; simp [← hpre]
  have e1 : s.rxByte (3 * s.gi + 1) = .ok b1 := by
    rw [rxByte_ofBytes h hl (by simp; omega)]; simp [← hpre]
  have e2 : s.rxByte (3 * s.gi + 2) = .ok c := by
    rw [rxByte_ofBytes h hl (by simp; omega)]; simp [← hpre]
  simp only [decodeLoop, State.memRead2, State.memRead1, e0, e1, e2, Ran.get, State.runChecksum]
  by_cases hc : c = checksum (assemble b0 b1) <;> simp [hc]

/-- The loop of DECODE over groups that all verify. -/
theorem decodeLoop_groups (us : List Word) (s : State) (ws : List Word) (pre post : List Byte)
    (h : s.rxbuf = Memory.ofBytes (pre ++ (groups us ++ post)))
    (hl : s.rxlen = (pre ++ (groups us ++ post)).length) (hpre : pre.length = 3 * s.gi) (n : Nat) :
    decodeLoop (us.length + n) ws s =
      decodeLoop n (ws ++ us) { s with acc := lastChecksum s.acc us, gi := s.gi + us.length } := by
  induction us generalizing s ws pre with
  | nil => simp [lastChecksum]
  | cons u us ih =>
    have hsplit : pre ++ (groups (u :: us) ++ post) = pre ++ hi8 u :: lo8 u :: checksum u :: (groups us ++ post) := by
      simp [groups, groupBytes]
    rw [hsplit] at h hl
    rw [show (u :: us).length + n = (us.length + n) + 1 by simp; omega, decodeLoop_succ h hl hpre]
    simp only [assemble_hi8_lo8, if_true]
    rw [ih _ _ (pre ++ [hi8 u, lo8 u, checksum u]) (by simp [h]) (by simp [hl]) (by simp [hpre]; omega)]
    simp [lastChecksum, Nat.add_assoc, Nat.add_comm 1]

/-- DECODE of the groups of `ws` (R103, R107). -/
theorem opDecode_groups (ws : List Word) (s : State) :
    opDecode (groups ws) ws.length s = .done ws (s.afterDecode ws) := by
  simp only [opDecode, groups_length, ne_eq, not_true_eq_false, if_false]
  have := decodeLoop_groups ws
    { s with rxbuf := Memory.ofBytes (groups ws), rxlen := 3 * ws.length, rc := ws.length, w := [], gi := 0 }
    [] [] [] (by simp) (by simp) (by simp) 0
  rw [Nat.add_zero] at this
  rw [this]
  simp [decodeLoop, Ran.bind, State.afterDecode, State.complete]

/-- DECODE of a wrong length (R104). -/
theorem opDecode_length {bs : List Byte} {n : Nat} (h : bs.length ≠ 3 * n) (s : State) :
    opDecode bs n s = .raised (.block .malformedResponse) (s.afterMalformed bs n) := by
  simp only [opDecode, ne_eq, h, not_false_eq_true, if_true]
  rfl

/-- DECODE of a frame whose first failing group is `ws.length` (R105, R106). -/
theorem opDecode_mismatch {ws : List Word} {b0 b1 c : Byte} {rest : List Byte} {n : Nat}
    (hn : (groups ws ++ b0 :: b1 :: c :: rest).length = 3 * n) (hc : c ≠ checksum (assemble b0 b1)) (s : State) :
    opDecode (groups ws ++ b0 :: b1 :: c :: rest) n s =
      .raised (.block (.checksumMismatch c (checksum (assemble b0 b1)) ws.length))
        (s.afterMismatch (groups ws ++ b0 :: b1 :: c :: rest) n ws.length (assemble b0 b1) c) := by
  obtain ⟨k, rfl⟩ : ∃ k, n = ws.length + (k + 1) := by
    refine ⟨n - ws.length - 1, ?_⟩
    simp at hn; omega
  simp only [opDecode, ne_eq, hn, not_true_eq_false, if_false]
  rw [decodeLoop_groups ws _ [] [] (b0 :: b1 :: c :: rest) (by simp) (by simp only [List.nil_append]; exact hn.symm) (by simp)]
  rw [decodeLoop_succ (pre := groups ws) (b0 := b0) (b1 := b1) (c := c) (rest := rest) (by simp) (by simpa using hn.symm) (by simp),
    if_neg hc]
  simp [Ran.raise, Ran.bind, State.afterMismatch, State.record, State.runChecksum, BlockError.status,
    BlockError.received, BlockError.expected, BlockError.index, hn]

/-- A byte sequence of `3 * n` bytes is `n` groups, or some group of it is the first that fails. -/
theorem groups_or_first_bad (n : Nat) (bs : List Byte) (h : bs.length = 3 * n) :
    (∃ ws, ws.length = n ∧ bs = groups ws) ∨
      ∃ ws b0 b1 c rest, c ≠ checksum (assemble b0 b1) ∧ bs = groups ws ++ b0 :: b1 :: c :: rest := by
  induction n generalizing bs with
  | zero => exact .inl ⟨[], rfl, List.length_eq_zero_iff.mp (by omega)⟩
  | succ n ih =>
    match bs, h with
    | b0 :: b1 :: c :: rest, h =>
      by_cases hc : c = checksum (assemble b0 b1)
      · have hgroup : b0 :: b1 :: c :: rest = groupBytes (assemble b0 b1) ++ rest := by simp [groupBytes, hc]
        rcases ih rest (by simp at h; omega) with ⟨ws, hw, rfl⟩ | ⟨ws, x0, x1, y, r, hy, rfl⟩
        · exact .inl ⟨assemble b0 b1 :: ws, by simp [hw], by rw [hgroup]; rfl⟩
        · exact .inr ⟨assemble b0 b1 :: ws, x0, x1, y, r, hy, by rw [hgroup]; simp [groups]⟩
      · exact .inr ⟨[], b0, b1, c, rest, hc, rfl⟩
    | [], h => simp at h
    | [_], h => simp at h; omega
    | [_, _], h => simp at h; omega

/-- Everything DECODE can do (R103 to R106): it never faults, never blocks, and returns words only for their groups. -/
theorem opDecode_cases (bs : List Byte) (n : Nat) (s : State) :
    (bs.length ≠ 3 * n ∧ opDecode bs n s = .raised (.block .malformedResponse) (s.afterMalformed bs n)) ∨
    (∃ ws, ws.length = n ∧ bs = groups ws ∧ opDecode bs n s = .done ws (s.afterDecode ws)) ∨
    (∃ ws b0 b1 c rest, bs.length = 3 * n ∧ c ≠ checksum (assemble b0 b1) ∧
      bs = groups ws ++ b0 :: b1 :: c :: rest ∧
      opDecode bs n s = .raised (.block (.checksumMismatch c (checksum (assemble b0 b1)) ws.length))
        (s.afterMismatch bs n ws.length (assemble b0 b1) c)) := by
  by_cases h : bs.length = 3 * n
  · right
    rcases groups_or_first_bad n bs h with ⟨ws, rfl, rfl⟩ | ⟨ws, b0, b1, c, rest, hc, rfl⟩
    · exact .inl ⟨ws, rfl, rfl, opDecode_groups ws s⟩
    · exact .inr ⟨ws, b0, b1, c, rest, h, hc, rfl, opDecode_mismatch h hc s⟩
  · exact .inl ⟨h, opDecode_length h s⟩

end Sys2Proof.Machine
end

