-- ==== Sys2Proof/Laws/Execute.lean ====
section
/-! SUPPORT. What EXECUTE can do, said once (spec/43_controller.md R121, R122): one equation per way it ends, and the
inversion lemma `transact_cases` that lists them all, with the resets that may fall meanwhile (R180). -/

namespace Sys2Proof.Machine

/-! ## How a call ends -/

@[simp] theorem Ran.bind_done {α β : Type} (v : α) (s : State) (k : α → State → Ran β) :
    (Ran.done v s).bind k = k v s := rfl
@[simp] theorem Ran.bind_raised {α β : Type} (e : Error) (s : State) (k : α → State → Ran β) :
    (Ran.raised e s).bind k = .raised e s := rfl
@[simp] theorem Ran.bind_blocked {α β : Type} (s : State) (k : α → State → Ran β) :
    (Ran.blocked s).bind k = .blocked s := rfl
@[simp] theorem Ran.bind_abandoned {α β : Type} (s : State) (k : α → State → Ran β) :
    (Ran.abandoned s).bind k = .abandoned s := rfl
@[simp] theorem Ran.bind_refused {α β : Type} (r : Refusal) (k : α → State → Ran β) :
    (Ran.refused r).bind k = .refused r := rfl
@[simp] theorem Ran.get_ok {α β : Type} (v : α) (k : α → Ran β) : Ran.get (.ok v) k = k v := rfl
@[simp] theorem Ran.outcome_done {α : Type} (give : α → Returned) (v : α) (s : State) :
    (Ran.done v s).outcome give = .next (s.giveBack (give v)) := rfl
@[simp] theorem Ran.outcome_raised {α : Type} (give : α → Returned) (e : Error) (s : State) :
    (Ran.raised e s).outcome give = .next (s.giveBack (.error e)) := rfl
@[simp] theorem Ran.outcome_blocked {α : Type} (give : α → Returned) (s : State) :
    (Ran.blocked s).outcome give = .next s := rfl
@[simp] theorem Ran.outcome_abandoned {α : Type} (give : α → Returned) (s : State) :
    (Ran.abandoned s).outcome give = .next (s.giveBack .nothing) := rfl
@[simp] theorem Ran.outcome_refused {α : Type} (give : α → Returned) (r : Refusal) :
    (Ran.refused r : Ran α).outcome give = .refused r := rfl

/-- Every state a call can end in has a property, and it does not fault. -/
def Ran.Ends {α : Type} (P : State → Prop) : Ran α → Prop
  | .done _ s => P s
  | .raised _ s => P s
  | .blocked s => P s
  | .abandoned s => P s
  | .fault _ => False
  | .refused _ => True

/-- What follows a step of the pseudocode has the property if the step has it and what follows keeps it from every
value the step can return. -/
theorem Ran.Ends.bind {α β : Type} {P Q : State → Prop} {x : Ran α} {k : α → State → Ran β} (h : x.Ends P)
    (hPQ : ∀ s, P s → Q s) (hk : ∀ v s, x = .done v s → P s → (k v s).Ends Q) : (x.bind k).Ends Q := by
  cases x with
  | done v s => exact hk v s rfl h
  | raised e s => exact hPQ s h
  | blocked s => exact hPQ s h
  | abandoned s => exact hPQ s h
  | fault f => exact h.elim
  | refused r => trivial

/-- A call whose ends have a property `P` that handing back a value keeps gives only next states with it. -/
theorem Ran.Ends.next {α : Type} {P : State → Prop} {x : Ran α} {give : α → Returned} {t : State} (h : x.Ends P)
    (hP : ∀ s r, P s → P (s.giveBack r)) (ht : x.outcome give = .next t) : P t := by
  cases x with
  | done v s => simp at ht; exact ht ▸ hP _ _ h
  | raised e s => simp at ht; exact ht ▸ hP _ _ h
  | blocked s => simp at ht; exact ht ▸ h
  | abandoned s => simp at ht; exact ht ▸ hP _ _ h
  | fault f => exact h.elim
  | refused r => simp at ht

theorem Ran.bind_assoc {α β γ : Type} (x : Ran α) (k : α → State → Ran β) (l : β → State → Ran γ) :
    (x.bind k).bind l = x.bind fun v s => (k v s).bind l := by cases x <;> rfl

theorem Ran.Ends.no_fault {α : Type} {P : State → Prop} {x : Ran α} {give : α → Returned} {f : Fault} (h : x.Ends P) :
    x.outcome give ≠ .fault f := by
  cases x with
  | fault f => exact h.elim
  | done v s => simp
  | raised e s => simp
  | blocked s => simp
  | abandoned s => simp
  | refused r => simp

/-! ## Points at which a reset may fall -/

@[simp] theorem State.pass_pass (s : State) (m n : Nat) : (s.pass m).pass n = s.pass (m + n) := by
  simp [State.pass]

theorem State.quiet_add {s : State} {m n : Nat} : s.quiet (m + n) ↔ s.quiet m ∧ (s.pass m).quiet n := by
  simp only [State.quiet, State.pass_resetLine, List.take_add, List.mem_append]
  exact ⟨fun h => ⟨fun b hb => h b (.inl hb), fun b hb => h b (.inr hb)⟩, fun h b hb => hb.elim (h.1 b) (h.2 b)⟩

theorem State.quiet_mono {s : State} {m n : Nat} (h : s.quiet n) (hmn : m ≤ n) : s.quiet m := by
  obtain ⟨k, rfl⟩ := Nat.exists_eq_add_of_le hmn
  exact (State.quiet_add.mp h).1

theorem State.quiet_one {s : State} : s.quiet 1 ↔ s.resetFalls = false := by
  simp only [State.quiet, State.resetFalls]
  cases s.resetLine <;> simp

theorem State.quiet_of_nil {s : State} (h : s.resetLine = []) (n : Nat) : s.quiet n := by
  simp [State.quiet, h]

theorem State.idlePoint_quiet {s : State} (h : s.quiet 1) : s.idlePoint = s.pass 1 := by
  simp [State.idlePoint, State.quiet_one.mp h]

theorem State.not_quiet {s : State} {m n : Nat} (h : (s.pass m).resetFalls = true) (hmn : m < n) : ¬ s.quiet n :=
  fun hq => by
    have := (State.quiet_add (m := m) (n := 1)).mp (State.quiet_mono hq hmn)
    simp [State.quiet_one.mp this.2] at h

theorem issue_quiet {α : Type} {op : State → Ran α} {s : State} (h : s.quiet 1) : issue op s = op (s.pass 1) := by
  simp [issue, State.quiet_one.mp h]

/-- An operation of the block runs, or is abandoned by a reset that falls inside it; nothing else. -/
theorem issue_cases {α : Type} (op : State → Ran α) (s : State) :
    (s.quiet 1 ∧ issue op s = op (s.pass 1)) ∨ (¬ s.quiet 1 ∧ issue op s = .abandoned (resetBlock (s.pass 1))) := by
  by_cases h : s.quiet 1
  · exact .inl ⟨h, issue_quiet h⟩
  · refine .inr ⟨h, ?_⟩
    rw [State.quiet_one, Bool.not_eq_false] at h
    simp [issue, h]

/-- `u` is `s` after `n` points, at some of which the block may have been reset. The host's own state is untouched
(`Reached.host`). -/
def Reached (n : Nat) (s u : State) : Prop := u = s.pass n ∨ (¬ s.quiet n ∧ u = resetBlock (s.pass n))

theorem Reached.quiet {n : Nat} {s u : State} (h : Reached n s u) (hq : s.quiet n) : u = s.pass n :=
  h.resolve_right fun hr => hr.1 hq

theorem Reached.pass {n : Nat} {s : State} : Reached n s (s.pass n) := .inl rfl

theorem Reached.idlePoint {s : State} : Reached 1 s s.idlePoint := by
  by_cases h : s.quiet 1
  · exact .inl (State.idlePoint_quiet h)
  · refine .inr ⟨h, ?_⟩
    rw [State.quiet_one, Bool.not_eq_false] at h
    simp [State.idlePoint, h]

theorem Reached.trans {m n : Nat} {s u v : State} (h : Reached m s u) (h' : Reached n u v) : Reached (m + n) s v := by
  rcases h with rfl | ⟨hm, rfl⟩
  · rcases h' with rfl | ⟨hn, rfl⟩
    · exact .inl (by simp)
    · exact .inr ⟨fun hq => hn (State.quiet_add.mp hq).2, by simp⟩
  · refine .inr ⟨fun hq => hm (State.quiet_add.mp hq).1, ?_⟩
    rcases h' with rfl | ⟨_, rfl⟩ <;> (rw [← State.pass_pass]; rfl)

/-- A reset of the block leaves everything that is the host's (R181). -/
theorem Reached.host {n : Nat} {s u : State} (h : Reached n s u) :
    u.busHeld = s.busHeld ∧ u.busReleased = s.busReleased ∧ u.addr = s.addr ∧ u.polls = s.polls ∧
    u.serialIdLegacy = s.serialIdLegacy ∧ u.roundTies = s.roundTies ∧ u.requests = s.requests ∧
    u.writeAnswers = s.writeAnswers ∧ u.readAnswers = s.readAnswers ∧ u.stalled = s.stalled ∧ u.events = s.events ∧
    u.returned = s.returned ∧ u.resetLine = s.resetLine.drop n := by
  rcases h with rfl | ⟨_, rfl⟩ <;> exact ⟨rfl, rfl, rfl, rfl, rfl, rfl, rfl, rfl, rfl, rfl, rfl, rfl, rfl⟩

/-! ## Exchanges -/

theorem State.idlePoint_setWriteAnswers (s : State) (wa : List WriteAnswer) :
    s.idlePoint.setWriteAnswers wa = (s.setWriteAnswers wa).idlePoint := by
  unfold State.idlePoint
  rw [show (s.setWriteAnswers wa).resetFalls = s.resetFalls from rfl]
  split <;> rfl

theorem State.idlePoint_setReadAnswers (s : State) (ra : List ReadAnswer) :
    s.idlePoint.setReadAnswers ra = (s.setReadAnswers ra).idlePoint := by
  unfold State.idlePoint
  rw [show (s.setReadAnswers ra).resetFalls = s.resetFalls from rfl]
  split <;> rfl

theorem State.idlePoint_emit (s : State) (e : Event) : s.idlePoint.emit e = (s.emit e).idlePoint := by
  unfold State.idlePoint
  rw [show (s.emit e).resetFalls = s.resetFalls from rfl]
  split <;> rfl

/-- Everything a write exchange can do. -/
theorem busWrite_eq (bs : List Byte) (s : State) : busWrite bs s =
    match s.writeAnswers with
    | [] => .blocked ((s.emit (.busWrite s.addr bs)).idlePoint.stall .write)
    | .ok :: wa => .done () ((s.emit (.busWrite s.addr bs)).setWriteAnswers wa).idlePoint
    | .failed e :: wa => .raised (.busError e) ((s.emit (.busWrite s.addr bs)).setWriteAnswers wa).idlePoint := by
  rcases h : s.writeAnswers with _ | ⟨_ | _, _⟩ <;>
    simp only [busWrite, State.idlePoint_writeAnswers, State.emit_writeAnswers, State.idlePoint_setWriteAnswers, h]

/-- Everything a read exchange can do. -/
theorem busRead_eq (n : Nat) (s : State) : busRead n s =
    match s.readAnswers with
    | [] => .blocked ((s.emit (.busRead s.addr n)).idlePoint.stall .read)
    | .bytes bs :: ra => .done bs ((s.emit (.busRead s.addr n)).setReadAnswers ra).idlePoint
    | .failed e :: ra => .raised (.busError e) ((s.emit (.busRead s.addr n)).setReadAnswers ra).idlePoint := by
  rcases h : s.readAnswers with _ | ⟨_ | _, _⟩ <;>
    simp only [busRead, State.idlePoint_readAnswers, State.emit_readAnswers, State.idlePoint_setReadAnswers, h]

/-! ## EXECUTE -/

section
variable {lookup : State → Ran Descriptor} {s : State} {d : Descriptor} {ps : List Word}

theorem transact_stalled (h : s.stalled.isSome = true) : transact lookup ps s = .blocked s := by
  simp [transact, h]

theorem transact_released (h : s.stalled = none) (hr : s.busReleased = true) :
    transact lookup ps s = .refused .busReleased := by
  simp [transact, h, hr]

theorem transact_noTransport (h : s.stalled = none) (hr : s.busReleased = false) (hb : s.busHeld = false) :
    transact lookup ps s = .refused .noTransport := by
  simp [transact, h, hr, hb]

/-- A reset inside LOOKUP abandons the transaction. -/
theorem transact_lookupAbandoned (h : s.Ready) (hf : s.resetFalls = true) :
    transact lookup ps s = .abandoned (resetBlock (s.pass 1)) := by
  simp [transact, issue, h.1, h.2.1, h.2.2, hf]

theorem transact_unknown (h : s.Ready) (hq : s.quiet 1)
    (hl : ∀ u, lookup u = .raised (.block .unknownCommand) (u.record .unknownCommand)) :
    transact lookup ps s = .raised (.block .unknownCommand) ((s.pass 1).record .unknownCommand) := by
  simp [transact, h.1, h.2.1, h.2.2, issue_quiet hq, hl]

/-- A transaction whose LOOKUP finds `d`: a reset inside LOOKUP or ENCODE abandons it; else `u` is the state ENCODE
starts from, up to STATUS and the error record, which ENCODE overwrites. -/
theorem transact_encode (h : s.Ready) (hl : ∀ u, lookup u = .done d u.complete) :
    (∃ m, (m = 0 ∨ m = 2) ∧ (s.pass m).resetFalls = true ∧
      transact lookup ps s = .abandoned (resetBlock (s.pass (m + 1)))) ∨
      ((s.pass 0).resetFalls = false ∧ (s.pass 2).resetFalls = false ∧
        ∃ u, Reached 3 s u ∧
        ((ps.length ≠ d.parameterCount ∧
            transact lookup ps s = .raised (.block .parameterCountMismatch) (u.afterCountMismatch d ps)) ∨
          (ps.length = d.parameterCount ∧
            transact lookup ps s =
              (busWrite (commandFrame d.opcode ps) (u.afterEncode d ps)).bind fun _ s3 =>
                let s4 := sleep settleDelay s3
                if d.responseCount = 0 then .done [] s4
                else (busRead (3 * d.responseCount) s4).bind fun bs s5 =>
                  issue (opDecode bs d.responseCount) s5))) := by
  cases h0 : s.resetFalls
  swap
  · exact .inl ⟨0, .inl rfl, h0, transact_lookupAbandoned h h0⟩
  have e1 : transact lookup ps s = (issue (opEncode d ps) (s.pass 1).complete.idlePoint).bind fun frame s2 =>
      (busWrite frame s2).bind fun _ s3 =>
        let s4 := sleep settleDelay s3
        if d.responseCount = 0 then .done [] s4
        else (busRead (3 * d.responseCount) s4).bind fun bs s5 => issue (opDecode bs d.responseCount) s5 := by
    simp [transact, h.1, h.2.1, h.2.2, issue_quiet (State.quiet_one.mpr h0), hl]
  have hmid : ((s.pass 1).resetFalls = true ∧ (s.pass 1).complete.idlePoint = resetBlock (s.pass 2)) ∨
      (s.pass 1).complete.idlePoint = (s.pass 2).complete := by
    rw [State.idlePoint, show (s.pass 1).complete.resetFalls = (s.pass 1).resetFalls from rfl, ← State.pass_pass s 1 1]
    cases (s.pass 1).resetFalls
    · exact .inr rfl
    · exact .inl ⟨rfl, rfl⟩
  have h2 : (s.pass 1).complete.idlePoint.resetFalls = (s.pass 2).resetFalls := by
    rcases hmid with ⟨_, em⟩ | em <;> rw [em] <;> rfl
  cases hf : (s.pass 2).resetFalls
  · refine .inr ⟨h0, rfl, ?_⟩
    rw [e1, issue_quiet (State.quiet_one.mpr (h2.trans hf))]
    rcases hmid with ⟨hr, em⟩ | em
    · refine ⟨resetBlock (s.pass 3), .inr ⟨State.not_quiet hr (by omega), rfl⟩, ?_⟩
      rw [em, show (resetBlock (s.pass 2)).pass 1 = resetBlock (s.pass 3) by rw [← State.pass_pass s 2 1]; rfl,
        opEncode_eq]
      by_cases hc : ps.length = d.parameterCount <;> simp [hc]
    · refine ⟨s.pass 3, .inl rfl, ?_⟩
      rw [em, show (s.pass 2).complete.pass 1 = (s.pass 3).complete by rw [← State.pass_pass s 2 1]; rfl, opEncode_eq]
      by_cases hc : ps.length = d.parameterCount
      · exact .inr ⟨hc, by simp only [hc, if_true]; rfl⟩
      · exact .inl ⟨hc, by simp only [hc, if_false]; rfl⟩
  · refine .inl ⟨2, .inr rfl, hf, ?_⟩
    rw [e1, issue, h2, hf, if_pos rfl]
    rcases hmid with ⟨_, em⟩ | em <;> rw [em, ← State.pass_pass s 2 1] <;> rfl

/-- Steps 3 to 6 of a transaction, after ENCODE (R121). -/
theorem exchanges_eq (u : State) :
    ((busWrite (commandFrame d.opcode ps) (u.afterEncode d ps)).bind fun _ s3 =>
      let s4 := sleep settleDelay s3
      if d.responseCount = 0 then .done [] s4
      else (busRead (3 * d.responseCount) s4).bind fun bs s5 => issue (opDecode bs d.responseCount) s5) =
    match u.writeAnswers with
    | [] => .blocked ((u.afterWrite d ps []).idlePoint.stall .write)
    | .failed e :: wa => .raised (.busError e) (u.afterWrite d ps wa).idlePoint
    | .ok :: wa =>
      if d.responseCount = 0 then .done [] (u.afterSettle d ps wa).idlePoint.idlePoint
      else
        match u.readAnswers with
        | [] => .blocked ((u.afterRead d ps wa []).idlePoint.idlePoint.idlePoint.stall .read)
        | .failed e :: ra => .raised (.busError e) (u.afterRead d ps wa ra).idlePoint.idlePoint.idlePoint
        | .bytes bs :: ra =>
          issue (opDecode bs d.responseCount) (u.afterRead d ps wa ra).idlePoint.idlePoint.idlePoint := by
  have hwrite : ∀ wa, ((u.afterEncode d ps).emit (.busWrite u.addr (commandFrame d.opcode ps))).setWriteAnswers wa =
      u.afterWrite d ps wa := fun _ => rfl
  have hnil : ∀ {x : State}, x.writeAnswers = [] → x.setWriteAnswers [] = x := by
    intro x hx; simp only [State.setWriteAnswers, ← hx]
  have hnil' : ∀ {x : State}, x.readAnswers = [] → x.setReadAnswers [] = x := by
    intro x hx; simp only [State.setReadAnswers, ← hx]
  have hsleep : ∀ wa, sleep settleDelay (u.afterWrite d ps wa).idlePoint =
      (u.afterSettle d ps wa).idlePoint.idlePoint := by
    intro wa
    rw [sleep, State.idlePoint_emit]
    simp [State.emit, State.afterWrite, State.afterSettle, settleDelay]
  have hread : ∀ wa ra, ((u.afterSettle d ps wa).idlePoint.idlePoint.emit
      (.busRead u.addr (3 * d.responseCount))).setReadAnswers ra =
      (u.afterRead d ps wa ra).idlePoint.idlePoint := by
    intro wa ra
    rw [State.idlePoint_emit, State.idlePoint_emit, State.idlePoint_setReadAnswers, State.idlePoint_setReadAnswers]
    simp [State.emit, State.afterSettle, State.afterEncode, State.afterRead, State.setReadAnswers]
  rw [busWrite_eq]
  simp only [show (u.afterEncode d ps).writeAnswers = u.writeAnswers from rfl,
    show (u.afterEncode d ps).addr = u.addr from rfl, hwrite]
  cases hw : u.writeAnswers with
  | nil =>
    simp only [Ran.bind_blocked]
    rw [← hwrite, hnil (x := (u.afterEncode d ps).emit _) hw]
  | cons a wa =>
    cases a with
    | failed e => rfl
    | ok =>
      simp only [Ran.bind_done, hsleep]
      by_cases hr : d.responseCount = 0
      · simp only [hr, if_true]
      simp only [if_neg hr]
      rw [busRead_eq]
      simp only [State.idlePoint_readAnswers, State.idlePoint_addr,
        show (u.afterSettle d ps wa).readAnswers = u.readAnswers from rfl,
        show (u.afterSettle d ps wa).addr = u.addr from rfl, hread]
      cases ha : u.readAnswers with
      | nil =>
        simp only [Ran.bind_blocked]
        rw [← hread, hnil' (x := (u.afterSettle d ps wa).idlePoint.idlePoint.emit _)
          (by simpa [State.afterSettle, State.afterEncode] using ha)]
      | cons a ra => cases a <;> rfl

/-- Every way EXECUTE ends, for a LOOKUP that finds `d`. -/
theorem transact_cases (hl : ∀ u, lookup u = .done d u.complete) :
    (s.stalled.isSome = true ∧ transact lookup ps s = .blocked s) ∨
    (s.stalled = none ∧ s.busReleased = true ∧ transact lookup ps s = .refused .busReleased) ∨
    (s.stalled = none ∧ s.busReleased = false ∧ s.busHeld = false ∧ transact lookup ps s = .refused .noTransport) ∨
    (s.Ready ∧
      ((∃ m, (m = 0 ∨ m = 2) ∧ (s.pass m).resetFalls = true ∧
          transact lookup ps s = .abandoned (resetBlock (s.pass (m + 1)))) ∨
        ((s.pass 0).resetFalls = false ∧ (s.pass 2).resetFalls = false ∧
        ∃ u, Reached 3 s u ∧
        ((ps.length ≠ d.parameterCount ∧
          transact lookup ps s = .raised (.block .parameterCountMismatch) (u.afterCountMismatch d ps)) ∨
        (ps.length = d.parameterCount ∧
          ((s.writeAnswers = [] ∧ ∃ v, Reached 1 (u.afterWrite d ps []) v ∧
              transact lookup ps s = .blocked (v.stall .write)) ∨
            (∃ e wa v, s.writeAnswers = .failed e :: wa ∧ Reached 1 (u.afterWrite d ps wa) v ∧
              transact lookup ps s = .raised (.busError e) v) ∨
            ∃ wa, s.writeAnswers = .ok :: wa ∧
              ((d.responseCount = 0 ∧ ∃ v, Reached 2 (u.afterSettle d ps wa) v ∧
                  transact lookup ps s = .done [] v) ∨
                (d.responseCount ≠ 0 ∧ s.readAnswers = [] ∧ ∃ v, Reached 3 (u.afterRead d ps wa []) v ∧
                  transact lookup ps s = .blocked (v.stall .read)) ∨
                (∃ e ra v, d.responseCount ≠ 0 ∧ s.readAnswers = .failed e :: ra ∧
                  Reached 3 (u.afterRead d ps wa ra) v ∧ transact lookup ps s = .raised (.busError e) v) ∨
                ∃ bs ra v, d.responseCount ≠ 0 ∧ s.readAnswers = .bytes bs :: ra ∧
                  Reached 3 (u.afterRead d ps wa ra) v ∧
                  transact lookup ps s = issue (opDecode bs d.responseCount) v))))))) := by
  by_cases hst : s.stalled = none
  swap
  · have : s.stalled.isSome = true := Option.isSome_iff_ne_none.mpr hst
    exact .inl ⟨this, transact_stalled this⟩
  right
  by_cases hrel : s.busReleased = true
  · exact .inl ⟨hst, hrel, transact_released hst hrel⟩
  right
  simp only [Bool.not_eq_true] at hrel
  by_cases hheld : s.busHeld = true
  swap
  · simp only [Bool.not_eq_true] at hheld
    exact .inl ⟨hst, hrel, hheld, transact_noTransport hst hrel hheld⟩
  right
  have h : s.Ready := ⟨hst, hheld, hrel⟩
  refine ⟨h, ?_⟩
  rcases transact_encode (ps := ps) h hl with ⟨m, hm, hf, e⟩ | ⟨h0, h2, u, hu, ⟨hc, e⟩ | ⟨hc, e⟩⟩
  · exact .inl ⟨m, hm, hf, e⟩
  · exact .inr ⟨h0, h2, u, hu, .inl ⟨hc, e⟩⟩
  refine .inr ⟨h0, h2, u, hu, .inr ⟨hc, ?_⟩⟩
  obtain ⟨-, -, -, -, -, -, -, hwa, hra, -⟩ := hu.host
  rw [e, exchanges_eq, ← hwa, ← hra]
  have hr3 : ∀ wa ra, Reached 3 (u.afterRead d ps wa ra) (u.afterRead d ps wa ra).idlePoint.idlePoint.idlePoint :=
    fun wa ra => (Reached.idlePoint.trans Reached.idlePoint).trans Reached.idlePoint
  cases u.writeAnswers with
  | nil => exact .inl ⟨rfl, _, Reached.idlePoint, rfl⟩
  | cons a wa =>
    right
    cases a with
    | failed e => exact .inl ⟨e, wa, _, rfl, Reached.idlePoint, rfl⟩
    | ok =>
      refine .inr ⟨wa, rfl, ?_⟩
      by_cases hr : d.responseCount = 0
      · exact .inl ⟨hr, _, Reached.idlePoint.trans Reached.idlePoint, if_pos hr⟩
      right
      simp only [if_neg hr]
      cases u.readAnswers with
      | nil => exact .inl ⟨hr, rfl, _, hr3 wa [], rfl⟩
      | cons a ra =>
        right
        cases a with
        | failed e => exact .inl ⟨e, ra, _, hr, rfl, hr3 wa ra, rfl⟩
        | bytes bs => exact .inr ⟨bs, ra, _, hr, rfl, hr3 wa ra, rfl⟩

/-! ### EXECUTE when no reset falls into it -/

theorem State.idlePoint_twice {s : State} (h : s.quiet 2) : s.idlePoint.idlePoint = s.pass 2 :=
  (Reached.idlePoint.trans Reached.idlePoint).quiet h

theorem State.idlePoint_thrice {s : State} (h : s.quiet 3) : s.idlePoint.idlePoint.idlePoint = s.pass 3 :=
  ((Reached.idlePoint.trans Reached.idlePoint).trans Reached.idlePoint).quiet h

theorem transact_countMismatch (h : s.Ready) (hq : s.quiet 3) (hl : ∀ u, lookup u = .done d u.complete)
    (hc : ps.length ≠ d.parameterCount) :
    transact lookup ps s = .raised (.block .parameterCountMismatch) ((s.pass 3).afterCountMismatch d ps) := by
  rcases transact_encode (ps := ps) h hl with ⟨m, hm, hf, _⟩ | ⟨_, _, u, hu, ⟨_, e⟩ | ⟨hc', _⟩⟩
  · exact absurd hq (State.not_quiet hf (by omega))
  · rw [e, hu.quiet hq]
  · exact absurd hc' hc

/-- From ENCODE on, in the state three points later. -/
theorem transact_quiet (h : s.Ready) (hq : s.quiet 3) (hl : ∀ u, lookup u = .done d u.complete)
    (hc : ps.length = d.parameterCount) :
    transact lookup ps s =
      match s.writeAnswers with
      | [] => .blocked (((s.pass 3).afterWrite d ps []).idlePoint.stall .write)
      | .failed e :: wa => .raised (.busError e) ((s.pass 3).afterWrite d ps wa).idlePoint
      | .ok :: wa =>
        if d.responseCount = 0 then .done [] ((s.pass 3).afterSettle d ps wa).idlePoint.idlePoint
        else
          match s.readAnswers with
          | [] => .blocked (((s.pass 3).afterRead d ps wa []).idlePoint.idlePoint.idlePoint.stall .read)
          | .failed e :: ra => .raised (.busError e) ((s.pass 3).afterRead d ps wa ra).idlePoint.idlePoint.idlePoint
          | .bytes bs :: ra =>
            issue (opDecode bs d.responseCount)
              ((s.pass 3).afterRead d ps wa ra).idlePoint.idlePoint.idlePoint := by
  rcases transact_encode (ps := ps) h hl with ⟨m, hm, hf, _⟩ | ⟨_, _, u, hu, ⟨hc', _⟩ | ⟨_, e⟩⟩
  · exact absurd hq (State.not_quiet hf (by omega))
  · exact absurd hc hc'
  · rw [e, hu.quiet hq, exchanges_eq]; rfl

theorem transact_writeFails {e : TransportError} {wa : List WriteAnswer} (h : s.Ready) (hq : s.quiet 4)
    (hl : ∀ u, lookup u = .done d u.complete) (hc : ps.length = d.parameterCount) (hw : s.writeAnswers = .failed e :: wa) :
    transact lookup ps s = .raised (.busError e) ((s.pass 4).afterWrite d ps wa) := by
  obtain ⟨h3, h1⟩ := (State.quiet_add (m := 3) (n := 1)).mp hq
  simp only [transact_quiet h h3 hl hc, hw]
  rw [State.idlePoint_quiet (s := (s.pass 3).afterWrite d ps wa) h1, ← State.pass_pass s 3 1]; rfl

theorem transact_noResponse {wa : List WriteAnswer} (h : s.Ready) (hq : s.quiet 5)
    (hl : ∀ u, lookup u = .done d u.complete) (hc : ps.length = d.parameterCount) (hw : s.writeAnswers = .ok :: wa)
    (hr : d.responseCount = 0) :
    transact lookup ps s = .done [] ((s.pass 5).afterSettle d ps wa) := by
  obtain ⟨h3, h2⟩ := (State.quiet_add (m := 3) (n := 2)).mp hq
  simp only [transact_quiet h h3 hl hc, hw, if_pos hr]
  rw [State.idlePoint_twice (s := (s.pass 3).afterSettle d ps wa) h2, ← State.pass_pass s 3 2]; rfl

theorem transact_readFails {e : TransportError} {wa : List WriteAnswer} {ra : List ReadAnswer} (h : s.Ready)
    (hq : s.quiet 6) (hl : ∀ u, lookup u = .done d u.complete) (hc : ps.length = d.parameterCount)
    (hw : s.writeAnswers = .ok :: wa) (hr : d.responseCount ≠ 0) (ha : s.readAnswers = .failed e :: ra) :
    transact lookup ps s = .raised (.busError e) ((s.pass 6).afterRead d ps wa ra) := by
  obtain ⟨h3, h3'⟩ := (State.quiet_add (m := 3) (n := 3)).mp hq
  simp only [transact_quiet h h3 hl hc, hw, if_neg hr, ha]
  rw [State.idlePoint_thrice (s := (s.pass 3).afterRead d ps wa ra) h3', ← State.pass_pass s 3 3]; rfl

theorem transact_response {bs : List Byte} {wa : List WriteAnswer} {ra : List ReadAnswer} (h : s.Ready)
    (hq : s.quiet 7) (hl : ∀ u, lookup u = .done d u.complete) (hc : ps.length = d.parameterCount)
    (hw : s.writeAnswers = .ok :: wa) (hr : d.responseCount ≠ 0) (ha : s.readAnswers = .bytes bs :: ra) :
    transact lookup ps s = opDecode bs d.responseCount ((s.pass 7).afterRead d ps wa ra) := by
  obtain ⟨h6, h1⟩ := (State.quiet_add (m := 6) (n := 1)).mp hq
  obtain ⟨h3, h3'⟩ := (State.quiet_add (m := 3) (n := 3)).mp h6
  simp only [transact_quiet h h3 hl hc, hw, if_neg hr, ha]
  rw [State.idlePoint_thrice (s := (s.pass 3).afterRead d ps wa ra) h3',
    show ((s.pass 3).afterRead d ps wa ra).pass 3 = (s.pass 6).afterRead d ps wa ra by
      rw [← State.pass_pass s 3 3]; rfl,
    issue_quiet (s := (s.pass 6).afterRead d ps wa ra) h1, ← State.pass_pass s 6 1]
  rfl

end

/-- The meaning of an instruction is EXECUTE of its command. -/
theorem exec_eq (i : Instr) (s : State) : exec i s = (execute i.command i.parameters s).outcome .words := by
  cases i <;> rfl

/-- LOOKUP by selector finds the command. -/
theorem execute_lookup (c : Command) (s : State) : opLookupSelector c.selector s = .done c.descriptor s.complete :=
  opLookupSelector_command c s

/-- What a command that returns words has done: the write and, if it expects a response, the read succeeded, and the
words are those of the response's groups (R121). -/
theorem execute_done {c : Command} {ps ws : List Word} {s t : State} (h : execute c ps s = .done ws t) :
    ws.length = c.descriptor.responseCount ∧ (c.descriptor.responseCount ≠ 0 → t.w = ws) := by
  rcases transact_cases (s := s) (ps := ps) (execute_lookup c) with ⟨_, e⟩ | ⟨_, _, e⟩ | ⟨_, _, _, e⟩ |
    ⟨_, ⟨_, _, _, e⟩ | ⟨_, _, _, _, ⟨_, e⟩ | ⟨_, ⟨_, _, _, e⟩ | ⟨_, _, _, _, _, e⟩ |
      ⟨_, _, ⟨h0, _, _, e⟩ | ⟨_, _, _, _, e⟩ | ⟨_, _, _, _, _, _, e⟩ | ⟨bs, ra, v, _, _, _, e⟩⟩⟩⟩⟩
  all_goals rw [execute, e] at h
  case inr.inr.inr.inr.inr.inr.inr.inr.inr.inr =>
    rcases issue_cases (opDecode bs c.descriptor.responseCount) v with ⟨_, e⟩ | ⟨_, e⟩
    all_goals rw [e] at h
    · rcases opDecode_cases bs c.descriptor.responseCount (v.pass 1) with
        ⟨_, e⟩ | ⟨vs, hl, _, e⟩ | ⟨_, _, _, _, _, _, _, _, e⟩
      all_goals rw [e] at h
      all_goals simp only [reduceCtorEq, Ran.done.injEq] at h
      obtain ⟨rfl, rfl⟩ := h
      exact ⟨hl, fun _ => rfl⟩
    · simp only [reduceCtorEq] at h
  all_goals simp only [reduceCtorEq, Ran.done.injEq] at h
  obtain ⟨rfl, rfl⟩ := h
  exact ⟨h0.symm, fun hne => absurd h0 hne⟩

/-- The state a command ends in, in all its cases (R121, R122, R180). `u` is the state ENCODE starts from and `v` the
one after the exchanges, each with the resets that have fallen. -/
inductive CommandEnds (c : Command) (ps : List Word) (s : State) : State → Prop where
  | unchanged : s.stalled ≠ none → CommandEnds c ps s s
  | abandonedEarly {m} : s.Ready → (m = 0 ∨ m = 2) → (s.pass m).resetFalls = true →
      CommandEnds c ps s (resetBlock (s.pass (m + 1)))
  | countMismatch {u} : s.Ready → Reached 3 s u → ps.length ≠ c.descriptor.parameterCount →
      CommandEnds c ps s (u.afterCountMismatch c.descriptor ps)
  | writeStalls {u v} : s.Ready → Reached 3 s u → ps.length = c.descriptor.parameterCount → s.writeAnswers = [] →
      Reached 1 (u.afterWrite c.descriptor ps []) v → CommandEnds c ps s (v.stall .write)
  | writeFails {u v e wa} : s.Ready → Reached 3 s u → ps.length = c.descriptor.parameterCount →
      s.writeAnswers = .failed e :: wa → Reached 1 (u.afterWrite c.descriptor ps wa) v → CommandEnds c ps s v
  | noResponse {u v wa} : s.Ready → Reached 3 s u → ps.length = c.descriptor.parameterCount →
      s.writeAnswers = .ok :: wa → c.descriptor.responseCount = 0 → Reached 2 (u.afterSettle c.descriptor ps wa) v →
      CommandEnds c ps s v
  | readStalls {u v wa} : s.Ready → Reached 3 s u → ps.length = c.descriptor.parameterCount →
      s.writeAnswers = .ok :: wa → c.descriptor.responseCount ≠ 0 → s.readAnswers = [] →
      Reached 3 (u.afterRead c.descriptor ps wa []) v → CommandEnds c ps s (v.stall .read)
  | readFails {u v e wa ra} : s.Ready → Reached 3 s u → ps.length = c.descriptor.parameterCount →
      s.writeAnswers = .ok :: wa → c.descriptor.responseCount ≠ 0 → s.readAnswers = .failed e :: ra →
      Reached 3 (u.afterRead c.descriptor ps wa ra) v → CommandEnds c ps s v
  | abandonedLate {u v bs wa ra} : s.Ready → Reached 3 s u → ps.length = c.descriptor.parameterCount →
      s.writeAnswers = .ok :: wa → c.descriptor.responseCount ≠ 0 → s.readAnswers = .bytes bs :: ra →
      Reached 3 (u.afterRead c.descriptor ps wa ra) v → ¬ v.quiet 1 → CommandEnds c ps s (resetBlock (v.pass 1))
  | malformed {u v bs wa ra} : s.Ready → Reached 3 s u → ps.length = c.descriptor.parameterCount →
      s.writeAnswers = .ok :: wa → c.descriptor.responseCount ≠ 0 → s.readAnswers = .bytes bs :: ra →
      Reached 3 (u.afterRead c.descriptor ps wa ra) v → bs.length ≠ 3 * c.descriptor.responseCount →
      CommandEnds c ps s ((v.pass 1).afterMalformed bs c.descriptor.responseCount)
  | words {u v ws wa ra} : s.Ready → Reached 3 s u → ps.length = c.descriptor.parameterCount →
      s.writeAnswers = .ok :: wa → c.descriptor.responseCount ≠ 0 → s.readAnswers = .bytes (groups ws) :: ra →
      Reached 3 (u.afterRead c.descriptor ps wa ra) v → ws.length = c.descriptor.responseCount →
      CommandEnds c ps s ((v.pass 1).afterDecode ws)
  | mismatch {u v bs ws b0 b1 x rest wa ra} : s.Ready → Reached 3 s u → ps.length = c.descriptor.parameterCount →
      s.writeAnswers = .ok :: wa → c.descriptor.responseCount ≠ 0 → s.readAnswers = .bytes bs :: ra →
      Reached 3 (u.afterRead c.descriptor ps wa ra) v →
      bs = groups ws ++ b0 :: b1 :: x :: rest → bs.length = 3 * c.descriptor.responseCount →
      x ≠ checksum (assemble b0 b1) →
      CommandEnds c ps s ((v.pass 1).afterMismatch bs c.descriptor.responseCount ws.length (assemble b0 b1) x)

/-- EXECUTE of a command never faults, and ends as `CommandEnds` says. -/
theorem execute_ends (c : Command) (ps : List Word) (s : State) : (execute c ps s).Ends (CommandEnds c ps s) := by
  rcases transact_cases (s := s) (ps := ps) (execute_lookup c) with ⟨hs, e⟩ | ⟨_, _, e⟩ | ⟨_, _, _, e⟩ |
    ⟨hr, ⟨m, hm, hf, e⟩ | ⟨_, _, u, hu, ⟨hc, e⟩ | ⟨hc, ⟨hw, v, hv, e⟩ | ⟨_, _, v, hw, hv, e⟩ |
      ⟨_, hw, ⟨h0, v, hv, e⟩ | ⟨h0, ha, v, hv, e⟩ | ⟨_, _, v, h0, ha, hv, e⟩ | ⟨bs, ra, v, h0, ha, hv, e⟩⟩⟩⟩⟩
  all_goals rw [execute, e]
  · exact .unchanged (Option.isSome_iff_ne_none.mp hs)
  · trivial
  · trivial
  · exact .abandonedEarly hr hm hf
  · exact .countMismatch hr hu hc
  · exact .writeStalls hr hu hc hw hv
  · exact .writeFails hr hu hc hw hv
  · exact .noResponse hr hu hc hw h0 hv
  · exact .readStalls hr hu hc hw h0 ha hv
  · exact .readFails hr hu hc hw h0 ha hv
  · rcases issue_cases (opDecode bs c.descriptor.responseCount) v with ⟨_, e⟩ | ⟨hq, e⟩
    all_goals rw [e]
    · rcases opDecode_cases bs c.descriptor.responseCount (v.pass 1) with
        ⟨hl, e⟩ | ⟨ws, hl, hb, e⟩ | ⟨ws, b0, b1, x, rest, hl, hx, hb, e⟩
      all_goals rw [e]
      · exact .malformed hr hu hc hw h0 ha hv hl
      · exact .words hr hu hc hw h0 (hb ▸ ha) hv hl
      · exact .mismatch hr hu hc hw h0 ha hv hb hl hx
    · exact .abandonedLate hr hu hc hw h0 ha hv hq

end Sys2Proof.Machine
end

