-- ==== Sys2Proof/Laws/Controller.lean ====
section
/-! SUPPORT. What a command leaves when `exec` gives a next state, and one round of the warm-up loop
(spec/43_controller.md R121, R126). -/

namespace Sys2Proof.Machine

theorem wf_iff {i : Instr} : i.wf = true ↔ i.parameters.length = i.command.descriptor.parameterCount := by
  simp [Instr.wf]

/-- Every next state of a command is one of the ends of its transaction, with at most `returned` written on top. -/
theorem exec_ends {i : Instr} {s t : State} (h : exec i s = .next t) :
    ∃ u, CommandEnds i.command i.parameters s u ∧ (t = u ∨ ∃ r, t = u.giveBack r) := by
  rw [exec_eq] at h
  have hends := execute_ends i.command i.parameters s
  revert h hends
  cases execute i.command i.parameters s <;> simp [Ran.Ends]
  · rintro rfl h; exact ⟨_, h, .inr ⟨_, rfl⟩⟩
  · rintro rfl h; exact ⟨_, h, .inr ⟨_, rfl⟩⟩
  · rintro rfl h; exact ⟨_, h, .inl rfl⟩
  · rintro rfl h; exact ⟨_, h, .inr ⟨_, rfl⟩⟩

/-- A command inside an exchange that never returns changes nothing (R186). -/
theorem exec_stalled {i : Instr} {s t : State} (h : exec i s = .next t) (hs : s.stalled ≠ none) : t = s := by
  rw [exec_eq, execute, transact_stalled (Option.isSome_iff_ne_none.mpr hs)] at h
  simpa using h.symm

section
variable {s : State} {wa : List WriteAnswer} {ra : List ReadAnswer}

/-- One poll whose exchanges succeed with two valid groups (R127). -/
theorem getAirQuality_eq (h : s.Ready) (hq : s.quiet 7) (w0 w1 : Word) (hw : s.writeAnswers = .ok :: wa)
    (ha : s.readAnswers = .bytes (groups [w0, w1]) :: ra) :
    getAirQuality s =
      .done (w0, w1) (((s.pass 7).afterRead ⟨"measure_air_quality", 0x2008, 0, 2⟩ [] wa ra).afterDecode [w0, w1]) := by
  simp only [getAirQuality, execute]
  rw [transact_response h hq (execute_lookup _) rfl hw (by decide) ha,
    show Command.measureAirQuality.descriptor.responseCount = [w0, w1].length from rfl, opDecode_groups]
  rfl

/-- start_measurement up to its loop (R126). -/
theorem startMeasurement_eq (callback : Bool) (h : s.Ready) (hq : s.quiet 5) (hw : s.writeAnswers = .ok :: wa) :
    startMeasurement callback s =
      warmupLoop callback warmupCap (((s.pass 5).afterSettle ⟨"init_air_quality", 0x2003, 0, 0⟩ [] wa).setPolls 0) := by
  simp only [startMeasurement, execute]
  rw [transact_noResponse h hq (execute_lookup _) rfl hw rfl]
  rfl

/-- A discarded poll below the cap: the callback if there is one, the delay, and the loop goes on (R126). -/
theorem warmupLoop_discard (callback : Bool) {n : Nat} (h : s.Ready) (hq : s.quiet 8) (hp : s.polls + 1 ≠ warmupCap)
    (hw : s.writeAnswers = .ok :: wa) (ha : s.readAnswers = .bytes (groups [400, 0]) :: ra) :
    ∃ u, warmupLoop callback (n + 1) s = warmupLoop callback n u ∧ u.Ready ∧ u.polls = s.polls + 1 ∧
      u.writeAnswers = wa ∧ u.readAnswers = ra ∧ u.addr = s.addr ∧ u.resetLine = s.resetLine.drop 8 ∧
      u.returned = s.returned ∧ u.requests = s.requests ∧
      u.events = s.events ++ (pollEvents s.addr ++ discardEvents callback) := by
  obtain ⟨h7, h1⟩ := (State.quiet_add (m := 7) (n := 1)).mp hq
  simp only [warmupLoop]
  rw [getAirQuality_eq h h7 400 0 hw ha]
  simp only [Ran.bind_done]
  rw [if_neg (by simp [warmupReading]), if_neg (by exact hp)]
  have hidle : ∀ x : State, x.resetLine = s.resetLine.drop 7 → x.idlePoint = x.pass 1 := fun x hx =>
    State.idlePoint_quiet (by rw [State.quiet, hx]; exact h1)
  refine ⟨_, rfl, ?_⟩
  rw [sleep, hidle _ (by cases callback <;> rfl)]
  refine ⟨?_, ?_, ?_, ?_, ?_, ?_, ?_, ?_, ?_⟩
  all_goals cases callback
  all_goals first | exact h | rfl | skip
  all_goals
    simp [progress, State.afterDecode, State.afterRead, State.afterEncode, pollEvents, discardEvents, pollDelay,
      commandFrame, groups]
    try decide

/-- `k` discarded polls below the cap (R126). -/
theorem warmupLoop_discards (callback : Bool) (k : Nat) : ∀ (n : Nat) (s : State) (wa : List WriteAnswer)
    (ra : List ReadAnswer), s.Ready → s.quiet (8 * k) → s.polls + k < warmupCap →
    s.writeAnswers = List.replicate k .ok ++ wa →
    s.readAnswers = List.replicate k (.bytes (groups [400, 0])) ++ ra →
    ∃ u, warmupLoop callback (n + k) s = warmupLoop callback n u ∧ u.Ready ∧ u.polls = s.polls + k ∧
      u.writeAnswers = wa ∧ u.readAnswers = ra ∧ u.addr = s.addr ∧ u.resetLine = s.resetLine.drop (8 * k) ∧
      u.returned = s.returned ∧ u.requests = s.requests ∧
      u.events = s.events ++ (List.replicate k (pollEvents s.addr ++ discardEvents callback)).flatten := by
  induction k with
  | zero => intro n s wa ra h _ _ hw ha; exact ⟨s, rfl, h, rfl, hw, ha, rfl, rfl, rfl, rfl, by simp⟩
  | succ k ih =>
    intro n s wa ra h hq hp hw ha
    obtain ⟨h8, hk⟩ := (State.quiet_add (m := 8) (n := 8 * k)).mp (by rwa [show 8 + 8 * k = 8 * (k + 1) by omega])
    obtain ⟨u, e, g2, g3, g4, g5, g6, g7, g8, g9, g10⟩ := warmupLoop_discard callback (n := n + k) h h8 (by omega)
      (by simpa [List.replicate_succ] using hw) (by simpa [List.replicate_succ] using ha)
    obtain ⟨v, e', f2, f3, f4, f5, f6, f7, f8, f9, f10⟩ := ih n u wa ra g2 (by rw [State.quiet, g7]; exact hk) (by omega)
      g4 g5
    refine ⟨v, by rw [← e', ← e]; rfl, f2, by omega, f4, f5, f6.trans g6, ?_, f8.trans g8, f9.trans g9, ?_⟩
    · rw [f7, g7, List.drop_drop, show 8 + 8 * k = 8 * (k + 1) by omega]
    · rw [f10, g10, g6]; simp [List.replicate_succ]

end

@[simp] theorem leastElapsed_append (es fs : List Event) :
    leastElapsed (es ++ fs) = leastElapsed es + leastElapsed fs := by
  induction es with
  | nil => simp [leastElapsed]
  | cons e es ih => simp [leastElapsed, ih, Nat.add_assoc]

theorem leastElapsed_replicate_flatten (n : Nat) (es : List Event) :
    leastElapsed (List.replicate n es).flatten = n * leastElapsed es := by
  induction n with
  | zero => simp [leastElapsed]
  | succ n ih =>
    rw [List.replicate_succ, List.flatten_cons, leastElapsed_append, ih, Nat.succ_mul, Nat.add_comm]

end Sys2Proof.Machine
end

