-- ==== Sys2Proof/Laws/PerInstr.lean ====
section
/-! SUPPORT. The family `Frame`: of each instruction, that its opcode is its command's alone, that it is its command with
its words, and how long its frame is (spec/30_encoding.md R55, R56). -/

namespace Sys2Proof.Laws.Frame

def Statement (i : Instr) : Prop :=
  commandOfOpcode i.command.descriptor.opcode = some i.command ∧ i.command.instr i.parameters = i ∧
    (encode i).length = 2 + 3 * i.parameters.length

theorem initAirQuality (ps : List Word) : Statement (.initAirQuality ps) := ⟨rfl, rfl, commandFrame_length _ _⟩
theorem measureAirQuality (ps : List Word) : Statement (.measureAirQuality ps) :=
  ⟨rfl, rfl, commandFrame_length _ _⟩
theorem getBaseline (ps : List Word) : Statement (.getBaseline ps) := ⟨rfl, rfl, commandFrame_length _ _⟩
theorem setBaseline (ps : List Word) : Statement (.setBaseline ps) := ⟨rfl, rfl, commandFrame_length _ _⟩
theorem setHumidity (ps : List Word) : Statement (.setHumidity ps) := ⟨rfl, rfl, commandFrame_length _ _⟩
theorem getFeatureSetVersion (ps : List Word) : Statement (.getFeatureSetVersion ps) :=
  ⟨rfl, rfl, commandFrame_length _ _⟩
theorem measureRawSignals (ps : List Word) : Statement (.measureRawSignals ps) :=
  ⟨rfl, rfl, commandFrame_length _ _⟩
theorem getSerialId (ps : List Word) : Statement (.getSerialId ps) := ⟨rfl, rfl, commandFrame_length _ _⟩

end Sys2Proof.Laws.Frame
end

