-- ==== Sys2Proof/Laws/Reset.lean ====
section
/-! SUPPORT. What a reset that falls between the operations of a command can do (spec/70_reset_and_hazards.md R180, R181):
EXECUTE beside a run of it without a reset, `execute_asWithoutReset`, and the updates that keep `State.AsWithoutReset`. -/

namespace Sys2Proof.Machine

/-- The host of `s` over the registers of the block of `b`, with no reset to come. -/
def State.withBlock (s b : State) : State :=
  { b with
    busHeld := s.busHeld
    busReleased := s.busReleased
    addr := s.addr
    polls := s.polls
    serialIdLegacy := s.serialIdLegacy
    roundTies := s.roundTies
    requests := s.requests
    writeAnswers := s.writeAnswers
    readAnswers := s.readAnswers
    resetLine := []
    stalled := s.stalled
    events := s.events
    returned := s.returned }

theorem State.withBlock_self (s : State) : s.withBlock s = { s with resetLine := [] } := rfl

/-- The points that are passed are gone from the list. -/
theorem Reached.resetLine {n : Nat} {s u : State} (h : Reached n s u) : u.resetLine = s.resetLine.drop n := by
  rcases h with rfl | ⟨_, rfl⟩ <;> rfl

/-- With no reset to come, passing points changes nothing. -/
theorem State.pass_of_nil {s : State} (h : s.resetLine = []) (n : Nat) : s.pass n = s := by
  simp only [State.pass, show s.resetLine.drop n = s.resetLine by simp [h]]

/-- STATUS and the error record of an operation that completed, which are also those after reset. -/
abbrev State.Completed (s : State) : Prop :=
  s.status = .success ∧ s.errReceived = 0 ∧ s.errExpected = 0 ∧ s.errIndex = 0

namespace State.AsWithoutReset

variable {t u : State}

theorem eq_withBlock (h : t.AsWithoutReset u) (hr : u.resetLine = []) : u = t.withBlock u := by
  cases h; cases u; simp_all [State.withBlock]

theorem giveBack (h : t.AsWithoutReset u) (r : Returned) : (t.giveBack r).AsWithoutReset (u.giveBack r) :=
  { h with returned := rfl }

theorem setPolls (h : t.AsWithoutReset u) (n : Nat) : (t.setPolls n).AsWithoutReset (u.setPolls n) :=
  { h with polls := rfl }

theorem emit (h : t.AsWithoutReset u) (e : Event) : (t.emit e).AsWithoutReset (u.emit e) :=
  { h with events := congrArg (· ++ [e]) h.events }

/-- Points that are passed, with or without a reset at them, after an operation that completed. -/
theorem reached {n : Nat} {x : State} (h : t.AsWithoutReset u) (hx : Reached n t x) (hu : u.Completed) :
    x.AsWithoutReset u := by
  rcases hx with rfl | ⟨_, rfl⟩
  · exact { h with }
  · exact { h with
      status := hu.1.symm
      errReceived := hu.2.1.symm
      errExpected := hu.2.2.1.symm
      errIndex := hu.2.2.2.symm
      txbuf := .inr ⟨rfl, fun _ => rfl⟩
      words := .inr rfl }

/-! What the steps of a transaction leave: the same in either run but for W, which a reset before ENCODE may have cleared. -/

section
variable {s b v : State} {n : Nat} (hs : s.w = b.w ∨ s.w = []) (hv : Reached n s v) (d : Descriptor) (ps : List Word)
include hs hv

theorem afterCountMismatch :
    (v.afterCountMismatch d ps).AsWithoutReset ((s.withBlock b).afterCountMismatch d ps) := by
  rcases hv with rfl | ⟨_, rfl⟩
  · constructor <;> first | rfl | exact .inl ⟨rfl, fun _ => rfl⟩ | exact hs
  · constructor <;> first | rfl | exact .inl ⟨rfl, fun _ => rfl⟩ | exact .inr rfl

theorem afterWrite (wa : List WriteAnswer) :
    (v.afterWrite d ps wa).AsWithoutReset ((s.withBlock b).afterWrite d ps wa) := by
  rcases hv with rfl | ⟨_, rfl⟩
  · constructor <;> first | rfl | exact .inl ⟨rfl, fun _ => rfl⟩ | exact hs
  · constructor <;> first | rfl | exact .inl ⟨rfl, fun _ => rfl⟩ | exact .inr rfl

theorem afterSettle (wa : List WriteAnswer) :
    (v.afterSettle d ps wa).AsWithoutReset ((s.withBlock b).afterSettle d ps wa) := by
  rcases hv with rfl | ⟨_, rfl⟩
  · constructor <;> first | rfl | exact .inl ⟨rfl, fun _ => rfl⟩ | exact hs
  · constructor <;> first | rfl | exact .inl ⟨rfl, fun _ => rfl⟩ | exact .inr rfl

theorem afterRead (wa : List WriteAnswer) (ra : List ReadAnswer) :
    (v.afterRead d ps wa ra).AsWithoutReset ((s.withBlock b).afterRead d ps wa ra) := by
  rcases hv with rfl | ⟨_, rfl⟩
  · constructor <;> first | rfl | exact .inl ⟨rfl, fun _ => rfl⟩ | exact hs
  · constructor <;> first | rfl | exact .inl ⟨rfl, fun _ => rfl⟩ | exact .inr rfl

end

/-- DECODE overwrites W, STATUS and the error record with what its own input gives, and touches nothing else of these. -/
theorem afterDecode (h : t.AsWithoutReset u) (ws : List Word) : (t.afterDecode ws).AsWithoutReset (u.afterDecode ws) :=
  { h with status := rfl, errReceived := rfl, errExpected := rfl, errIndex := rfl, words := .inl rfl }

theorem afterMalformed (h : t.AsWithoutReset u) (bs : List Byte) (n : Nat) :
    (t.afterMalformed bs n).AsWithoutReset (u.afterMalformed bs n) :=
  { h with status := rfl, errReceived := rfl, errExpected := rfl, errIndex := rfl, words := .inl rfl }

theorem afterMismatch (h : t.AsWithoutReset u) (bs : List Byte) (n i : Nat) (w : Word) (c : Byte) :
    (t.afterMismatch bs n i w c).AsWithoutReset (u.afterMismatch bs n i w c) :=
  { h with status := rfl, errReceived := rfl, errExpected := rfl, errIndex := rfl, words := .inl rfl }

end State.AsWithoutReset

/-- Two runs that end in the same way, the second without a reset; `left` is what the first leaves of its resets to come
when it goes on. -/
inductive Ran.AsWithoutReset {α : Type} (left : List Bool) : Ran α → Ran α → Prop where
  | done (v : α) {t u : State} : t.AsWithoutReset u → u.Ready → u.Completed → t.resetLine = left → u.resetLine = [] →
      Ran.AsWithoutReset left (.done v t) (.done v u)
  | raised (e : Error) {t u : State} : t.AsWithoutReset u → Ran.AsWithoutReset left (.raised e t) (.raised e u)
  | blocked {t u : State} : t.AsWithoutReset u → Ran.AsWithoutReset left (.blocked t) (.blocked u)

/-- EXECUTE with resets at no point inside LOOKUP, ENCODE and DECODE, beside EXECUTE of the same host without a reset. -/
theorem execute_asWithoutReset (c : Command) (ps : List Word) {s b : State} (h : s.Ready) (hw : s.w = b.w ∨ s.w = [])
    (h02 : s.Spares [0, 2]) (h6 : c.descriptor.responseCount ≠ 0 → s.Spares [6]) :
    Ran.AsWithoutReset (s.resetLine.drop (if c.descriptor.responseCount = 0 then 5 else 7)) (execute c ps s)
      (execute c ps (s.withBlock b)) := by
  have hm : (s.withBlock b).Ready := h
  have hq : ∀ n, (s.withBlock b).quiet n := State.quiet_of_nil rfl
  have hp : ∀ n, (s.withBlock b).pass n = s.withBlock b := State.pass_of_nil rfl
  have hl := execute_lookup c
  unfold execute
  rcases transact_cases (s := s) (ps := ps) hl with ⟨hs, _⟩ | ⟨_, hr, _⟩ | ⟨_, _, hb, _⟩ |
    ⟨_, ⟨m, hm', hf, _⟩ | ⟨_, _, u, hu, ⟨hc, e⟩ | ⟨hc, ⟨ha, v, hv, e⟩ | ⟨_, _, v, ha, hv, e⟩ |
      ⟨wa, ha, ⟨h0, v, hv, e⟩ | ⟨h0, hb, v, hv, e⟩ | ⟨_, _, v, h0, hb, hv, e⟩ | ⟨bs, ra, v, h0, hb, hv, e⟩⟩⟩⟩⟩
  · simp [h.1] at hs
  · simp [h.2.2] at hr
  · simp [h.2.1] at hb
  · rw [h02 m (by simpa using hm')] at hf; cases hf
  · rw [e, transact_countMismatch hm (hq 3) hl hc, hp]
    exact .raised _ (.afterCountMismatch hw hu _ _)
  · rw [e, transact_quiet hm (hq 3) hl hc, hp]
    simp only [show (s.withBlock b).writeAnswers = s.writeAnswers from rfl, ha]
    rw [State.idlePoint_quiet (s := (s.withBlock b).afterWrite _ _ _) (hq 1)]
    have g := (State.AsWithoutReset.afterWrite hw hu c.descriptor ps []).reached hv ⟨rfl, rfl, rfl, rfl⟩
    exact .blocked { g with stalled := rfl }
  · rw [e, transact_writeFails hm (hq 4) hl hc ha, hp]
    exact .raised _ ((State.AsWithoutReset.afterWrite hw hu _ _ _).reached hv ⟨rfl, rfl, rfl, rfl⟩)
  · rw [e, transact_noResponse hm (hq 5) hl hc ha h0, hp, if_pos h0]
    refine .done _ ((State.AsWithoutReset.afterSettle hw hu _ _ _).reached hv ⟨rfl, rfl, rfl, rfl⟩) h
      ⟨rfl, rfl, rfl, rfl⟩ ?_ rfl
    rw [hv.resetLine]
    show u.resetLine.drop 2 = _
    rw [hu.resetLine, List.drop_drop]
  · rw [e, transact_quiet hm (hq 3) hl hc, hp]
    simp only [show (s.withBlock b).writeAnswers = s.writeAnswers from rfl,
      show (s.withBlock b).readAnswers = s.readAnswers from rfl, ha, hb, if_neg h0]
    rw [State.idlePoint_thrice (s := (s.withBlock b).afterRead _ _ _ _) (hq 3)]
    have g := (State.AsWithoutReset.afterRead hw hu c.descriptor ps wa []).reached hv ⟨rfl, rfl, rfl, rfl⟩
    exact .blocked { g with stalled := rfl }
  · rw [e, transact_readFails hm (hq 6) hl hc ha h0 hb, hp]
    exact .raised _ ((State.AsWithoutReset.afterRead hw hu _ _ _ _).reached hv ⟨rfl, rfl, rfl, rfl⟩)
  · have g := (State.AsWithoutReset.afterRead hw hu c.descriptor ps wa ra).reached hv ⟨rfl, rfl, rfl, rfl⟩
    have hleft : v.resetLine = s.resetLine.drop 6 := by
      rw [hv.resetLine]
      show u.resetLine.drop 3 = _
      rw [hu.resetLine, List.drop_drop]
    have hf : v.resetFalls = false := by
      rw [← h6 h0 6 (by simp)]; simp [State.resetFalls, hleft]
    have g' : (v.pass 1).AsWithoutReset ((s.withBlock b).afterRead c.descriptor ps wa ra) := { g with }
    rw [e, transact_response hm (hq 7) hl hc ha h0 hb, hp, if_neg h0, issue_quiet (State.quiet_one.mpr hf)]
    by_cases hlen : bs.length = 3 * c.descriptor.responseCount
    · rcases groups_or_first_bad _ bs hlen with ⟨ws, hwl, rfl⟩ | ⟨ws, b0, b1, x, rest, hx, rfl⟩
      · rw [← hwl, opDecode_groups, opDecode_groups]
        refine .done _ (g'.afterDecode ws) h ⟨rfl, rfl, rfl, rfl⟩ ?_ rfl
        show v.resetLine.drop 1 = _
        rw [hleft, List.drop_drop]
      · rw [opDecode_mismatch hlen hx, opDecode_mismatch hlen hx]
        exact .raised _ (g'.afterMismatch _ _ _ _ _)
    · rw [opDecode_length hlen, opDecode_length hlen]
      exact .raised _ (g'.afterMalformed _ _)

end Sys2Proof.Machine
end

