-- ==== Sys2Proof/Tests/Slice0.lean ====
section
/-! SUPPORT. Tests whose expected values come from spec/95_test_vectors.md or are written out from the spec's formats, and
a witness for the hypotheses of each statement. -/

namespace Sys2Proof.Tests

set_option Elab.async false

open Sys2Proof.Machine

/-- A host that has just been reset, with the answers its transport will give. -/
def host (writes : List WriteAnswer) (reads : List ReadAnswer) : State :=
  { State.reset with writeAnswers := writes, readAnswers := reads }

/-- The same, with a reset of the block at each point of the list that says so. -/
def hostReset (resets : List Bool) (writes : List WriteAnswer) (reads : List ReadAnswer) : State :=
  { host writes reads with resetLine := resets }

/-- The next state, if there is one. -/
def next? : Host.Outcome State Fault Refusal → Option State
  | .next s => some s
  | .fault _ => none
  | .refused _ => none

/-- What the next state hands back and has done. -/
def result (o : Host.Outcome State Fault Refusal) : Option (Returned × List Event) :=
  (next? o).map fun t => (t.returned, t.events)

theorem exists_next {α : Type} {o : Host.Outcome State Fault Refusal} {f : State → α} {v : α}
    (h : (next? o).map f = some v) : ∃ t, o = .next t ∧ f t = v := by
  cases o with
  | next t => exact ⟨t, rfl, by simpa [next?] using h⟩
  | fault _ => simp [next?] at h
  | refused _ => simp [next?] at h

theorem has_next {o : Host.Outcome State Fault Refusal} (h : (next? o).isSome = true) : ∃ t, o = .next t := by
  cases o with
  | next t => exact ⟨t, rfl⟩
  | fault _ => simp [next?] at h
  | refused _ => simp [next?] at h

/-- STATUS and the error record of the next state. -/
def errorRecord (o : Host.Outcome State Fault Refusal) : Option (Nat × Byte × Byte × Nat) :=
  (next? o).map fun t => (t.status.code, t.errReceived, t.errExpected, t.errIndex)

/-- The acts of a transaction without and with a response. -/
def wrote (bs : List Byte) : List Event := [.busWrite 0x58 bs, .sleep 25]
def asked (bs : List Byte) (n : Nat) : List Event := [.busWrite 0x58 bs, .sleep 25, .busRead 0x58 n]

/-! ## WellFormed: an ill-formed term of each constructor is refused (R60; spec/95 section 4.1) -/

theorem test_wf_initAirQuality : (Instr.initAirQuality [0x0000]).wf = false := by decide +kernel
theorem test_wf_measureAirQuality : (Instr.measureAirQuality [0x0000]).wf = false := by decide +kernel
theorem test_wf_getBaseline : (Instr.getBaseline [0x1234]).wf = false := by decide +kernel
theorem test_wf_setBaseline : (Instr.setBaseline [0x8E68]).wf = false ∧ (Instr.setBaseline [1, 2, 3]).wf = false := by
  decide +kernel
theorem test_wf_setHumidity : (Instr.setHumidity []).wf = false ∧ (Instr.setHumidity [12, 12]).wf = false := by
  decide +kernel
theorem test_wf_getFeatureSetVersion : (Instr.getFeatureSetVersion [0x0000]).wf = false := by decide +kernel
theorem test_wf_measureRawSignals : (Instr.measureRawSignals [0x0000]).wf = false := by decide +kernel
theorem test_wf_getSerialId : (Instr.getSerialId [0x0000]).wf = false := by decide +kernel

/-! ## Decode: frames written out from R52 and R55; the groups are those of spec/95 section 4.1 -/

theorem test_decode_initAirQuality : decode [0x20, 0x03] = .ok (.initAirQuality [], []) := by decide +kernel
theorem test_decode_measureAirQuality : decode [0x20, 0x08] = .ok (.measureAirQuality [], []) := by decide +kernel
theorem test_decode_getBaseline : decode [0x20, 0x15] = .ok (.getBaseline [], []) := by decide +kernel
theorem test_decode_setBaseline :
    decode [0x20, 0x1E, 0x8E, 0x68, 0xCD, 0x8A, 0x5C, 0x4F] = .ok (.setBaseline [0x8E68, 0x8A5C], []) := by
  decide +kernel
theorem test_decode_setHumidity : decode [0x20, 0x61, 0x00, 0x0C, 0xFC] = .ok (.setHumidity [0x000C], []) := by
  decide +kernel
theorem test_decode_getFeatureSetVersion : decode [0x20, 0x2F] = .ok (.getFeatureSetVersion [], []) := by decide +kernel
theorem test_decode_measureRawSignals : decode [0x20, 0x50] = .ok (.measureRawSignals [], []) := by decide +kernel
theorem test_decode_getSerialId : decode [0x36, 0x82, 0xAA] = .ok (.getSerialId [], [0xAA]) := by decide +kernel
theorem test_decode_refuses :
    decode [] = .error .noOpcode ∧ decode [0x20] = .error .noOpcode ∧
    decode [0x20, 0x04] = .error (.unknownOpcode 0x2004) ∧
    decode [0x20, 0x61, 0x00, 0x0C] = .error (.truncated 0) ∧
    decode [0x20, 0x1E, 0x8E, 0x68, 0xCD, 0x8A, 0x5C, 0x4E] = .error (.badChecksum 1) ∧
    decodeFrame [0x20, 0x03, 0x00] = .error (.trailingBytes 1) := by decide +kernel
theorem test_encode_frames :
    encode (.setBaseline [0x0000, 0xFFFF]) = [0x20, 0x1E, 0x00, 0x00, 0x81, 0xFF, 0xFF, 0xAC] ∧
    encode (.setHumidity [0xFFFF]) = [0x20, 0x61, 0xFF, 0xFF, 0xAC] ∧ encode (.getSerialId []) = [0x36, 0x82] := by
  decide +kernel
theorem test_decodeTableWord :
    [0x2003, 0x2008, 0x2015, 0x201E, 0x2061, 0x202F, 0x2050, 0x3682].map (decodeTableWord 16) =
      [some (.initAirQuality []), some (.measureAirQuality []), some (.getBaseline []), some (.setBaseline [0, 0]),
        some (.setHumidity [0]), some (.getFeatureSetVersion []), some (.measureRawSignals []),
        some (.getSerialId [])] := by decide +kernel
theorem test_decodeTableWord_operands :
    decodeTableWord 48 (0x8A5C * 2 ^ 32 + 0x8E68 * 2 ^ 16 + 0x201E) = some (.setBaseline [0x8E68, 0x8A5C]) ∧
    decodeTableWord 16 0x2004 = none := by decide +kernel

/-! ## The step runs what withFetchWord places, also right after reset -/

theorem test_step_from_reset :
    ∀ w ∈ [0x2003, 0x2008, 0x2015, 0x201E, 0x2061, 0x202F, 0x2050, 0x3682],
      (next? (step (State.reset.withFetchWord 16 w))).map State.stalled = some (some .write) := by decide +kernel
theorem test_step_fetches :
    result (step ((host [.ok] []).withFetchWord 16 0x2061)) =
      some (.words [], wrote [0x20, 0x61, 0x00, 0x00, 0x81]) := by decide +kernel
theorem test_step_unknown_opcode :
    step (State.reset.withFetchWord 16 0x2004) = .refused (.undecodable (.unknownOpcode 0x2004)) := rfl
theorem test_step_idle : step State.reset = .next State.reset := rfl

/-! ## The eight commands (spec/95 sections 4.1, 4.4 and 5) -/

theorem test_initAirQuality :
    result (exec (.initAirQuality []) (host [.ok] [])) = some (.words [], wrote [0x20, 0x03]) := by decide +kernel
theorem test_initAirQuality_count :
    result (exec (.initAirQuality [0x0000]) (host [.ok] [])) =
      some (.error (.block .parameterCountMismatch), []) := by decide +kernel
theorem test_measureAirQuality :
    result (exec (.measureAirQuality []) (host [.ok] [.bytes [0x01, 0x5E, 0x14, 0x00, 0x05, 0x74]])) =
      some (.words [0x015E, 0x0005], asked [0x20, 0x08] 6) := by decide +kernel
theorem test_measureAirQuality_mismatch :
    errorRecord (exec (.measureAirQuality []) (host [.ok] [.bytes [0x01, 0x5E, 0x14, 0x00, 0x05, 0x75]])) =
      some (3, 0x75, 0x74, 1) := by decide +kernel
theorem test_getBaseline :
    result (exec (.getBaseline []) (host [.ok] [.bytes [0x8A, 0x5C, 0x4F, 0x8E, 0x68, 0xCD]])) =
      some (.words [0x8A5C, 0x8E68], asked [0x20, 0x15] 6) := by decide +kernel
theorem test_getBaseline_count :
    errorRecord (exec (.getBaseline [0x1234]) (host [.ok] [])) = some (2, 0, 0, 0) := by decide +kernel
theorem test_setBaseline :
    result (exec (.setBaseline [0x8E68, 0x8A5C]) (host [.ok] [])) =
      some (.words [], wrote [0x20, 0x1E, 0x8E, 0x68, 0xCD, 0x8A, 0x5C, 0x4F]) := by decide +kernel
/-- Spec/95 section 6.1: the registers after the frame of set_baseline. -/
theorem test_setBaseline_registers :
    ((next? (exec (.setBaseline [0x8E68, 0x8A5C]) (host [.ok] []))).map fun t => (t.txlen, t.p, t.gi, t.acc, t.nw)) =
      some (8, [0x8E68, 0x8A5C], 2, 0x4F, 0) := by decide +kernel
theorem test_setHumidity :
    result (exec (.setHumidity [0x000C]) (host [.ok] [])) = some (.words [], wrote [0x20, 0x61, 0x00, 0x0C, 0xFC]) := by
  decide +kernel
theorem test_setHumidity_writeFails :
    result (exec (.setHumidity [0x000C]) (host [.failed ⟨7⟩] [])) =
      some (.error (.busError ⟨7⟩), [.busWrite 0x58 [0x20, 0x61, 0x00, 0x0C, 0xFC]]) := by decide +kernel
theorem test_getFeatureSetVersion :
    result (exec (.getFeatureSetVersion []) (host [.ok] [.bytes [0x1F, 0x22, 0x92]])) =
      some (.words [0x1F22], asked [0x20, 0x2F] 3) := by decide +kernel
theorem test_getFeatureSetVersion_zeros :
    errorRecord (exec (.getFeatureSetVersion []) (host [.ok] [.bytes [0, 0, 0]])) = some (3, 0x00, 0x81, 0) := by
  decide +kernel
theorem test_measureRawSignals :
    result (exec (.measureRawSignals []) (host [.ok] [.bytes [0x12, 0x34, 0x37, 0xAB, 0xCD, 0x6F]])) =
      some (.words [0x1234, 0xABCD], asked [0x20, 0x50] 6) := by decide +kernel
theorem test_measureRawSignals_short :
    errorRecord (exec (.measureRawSignals []) (host [.ok] [.bytes [0x12, 0x34, 0x37, 0xAB, 0xCD]])) =
      some (4, 0, 0, 0) := by decide +kernel
theorem test_getSerialId :
    result (exec (.getSerialId []) (host [.ok] [.bytes [0x11, 0x11, 0x69, 0x22, 0x22, 0x60, 0x33, 0x33, 0x88]])) =
      some (.words [0x1111, 0x2222, 0x3333], asked [0x36, 0x82] 9) := by decide +kernel
/-- Groups 1 and 2 are bad; group 1 is reported. -/
theorem test_getSerialId_first_bad :
    errorRecord (exec (.getSerialId [])
      (host [.ok] [.bytes [0x11, 0x11, 0x69, 0x22, 0x22, 0x61, 0x33, 0x33, 0x00]])) = some (3, 0x61, 0x60, 1) := by
  decide +kernel

/-! ## The block (spec/95 sections 2.1, 3, 4.1, 4.3) -/

theorem test_checksum :
    checksum 0x0000 = 0x81 ∧ checksum 0x0001 = 0xB0 ∧ checksum 0x8000 = 0xA2 ∧ checksum 0x5555 = 0x9A := by
  decide +kernel
theorem test_lookup :
    registryByName "set_humidity" = some ⟨"set_humidity", 0x2061, 1, 0⟩ ∧ registryByName "get_baseline " = none ∧
    registryByName "0x2015" = none ∧ registryBySelector 8 = none := by decide +kernel
/-- A descriptor that is no entry of the registry. -/
theorem test_encode_unlisted :
    (next? (perform (.encode ⟨"x", 0xABCD, 1, 0⟩ [0x1234]) State.reset)).map State.returned =
      some (.frame [0xAB, 0xCD, 0x12, 0x34, 0x37]) := by decide +kernel
/-- The length is tested before any checksum. -/
theorem test_decode_length_first :
    errorRecord (perform (.decode [0x01, 0x90, 0x4D, 0x00, 0x00] 2) State.reset) = some (4, 0, 0, 0) := by
  decide +kernel

/-! ## The host (spec/95 sections 1.7 and 5) -/

theorem test_serialId_legacy :
    serialId false 0x1111 0x2222 0x3333 = 0x111122223333 ∧ serialId true 0x1111 0x2222 0x3333 = 0x111122221111 := by
  decide +kernel
theorem test_featureSet :
    (productType 0x0020, featureVersion 0x0020) = (0, 0x20) ∧ (productType 0x1F22, featureVersion 0x1F22) = (1, 0x22) := by
  decide +kernel
theorem test_setBaseline_swaps :
    result (perform (.setBaseline 0x8A5C 0x8E68) (host [.ok] [])) =
      some (.unit, wrote [0x20, 0x1E, 0x8E, 0x68, 0xCD, 0x8A, 0x5C, 0x4F]) := by decide +kernel
/-- 11.57, 12.5 by both tie rules, 65535, 65536, -1 and not-a-number. -/
theorem test_humidity :
    (Humidity.finite 1157 100).toWord? .halfToEven = some 12 ∧ (Humidity.finite 25 2).toWord? .halfToEven = some 12 ∧
    (Humidity.finite 25 2).toWord? .halfAwayFromZero = some 13 ∧
    (Humidity.finite 65535 1).toWord? .halfToEven = some 0xFFFF ∧ (Humidity.finite 65536 1).toWord? .halfToEven = none ∧
    (Humidity.finite (-1) 1).toWord? .halfToEven = none ∧ Humidity.nan.toWord? .halfToEven = none := by decide +kernel
/-- (400, 0) for three polls, then (350, 5): the loop ends after the fourth. -/
theorem test_warmup_fourth_poll :
    ((next? (perform (.startMeasurement true) (host (List.replicate 5 .ok)
        (List.replicate 3 (.bytes [0x01, 0x90, 0x4C, 0, 0, 0x81]) ++
          [.bytes [0x01, 0x5E, 0x14, 0x00, 0x05, 0x74]])))).map fun t =>
      (t.polls, t.events.count .callback, t.events.count (.sleep 1000), t.returned)) = some (4, 3, 3, .unit) := by
  decide +kernel
theorem test_execute_measure_test :
    result (perform (.executeName "measure_test" [0x0001]) (host [.ok] [])) =
      some (.error (.block .unknownCommand), []) := by decide +kernel

/-! ## Reset (spec/70_reset_and_hazards.md R180: "abandoned without a result"; the register values are those of R22) -/

/-- What the next state hands back, the lengths and W of the block, and how much the host has done. -/
def afterReset (o : Host.Outcome State Fault Refusal) : Option (Returned × Nat × Nat × List Word × Nat) :=
  (next? o).map fun t => (t.returned, t.txlen, t.rxlen, t.w, t.events.length)

theorem test_reset_inside_encode :
    afterReset (exec (.setHumidity [0x000C]) (hostReset [false, false, true] [.ok] [])) = some (.nothing, 0, 0, [], 0) := by
  decide +kernel
/-- The delay is the fifth point: the host goes on, and DECODE begins in a block that has been reset. -/
theorem test_reset_in_the_delay :
    afterReset (exec (.measureAirQuality [])
      (hostReset [false, false, false, false, true] [.ok] [.bytes [0x01, 0x5E, 0x14, 0x00, 0x05, 0x74]])) =
      some (.words [0x015E, 0x0005], 0, 6, [0x015E, 0x0005], 3) := by decide +kernel
theorem test_reset_inside_decode :
    afterReset (exec (.measureAirQuality [])
      (hostReset [false, false, false, false, false, false, true] [.ok] [.bytes [0x01, 0x5E, 0x14, 0x00, 0x05, 0x74]])) =
      some (.nothing, 0, 0, [], 3) := by decide +kernel
/-- Spec/95 section 2.1: 0xBEEF has checksum 0x92; here the computation is abandoned. -/
theorem test_reset_inside_crc8 :
    (next? (perform (.crc8 0xBEEF) (hostReset [true] [] []))).map State.returned = some .nothing ∧
    (next? (perform (.crc8 0xBEEF) (hostReset [false, true] [] []))).map State.returned = some (.checksum 0x92) := by
  decide +kernel
/-- A stuck host stays in its exchange while the block is reset. -/
theorem test_reset_while_stuck :
    (next? (step { hostReset [true] [] [] with stalled := some .read, txlen := 2 })).map
      (fun t => (t.stalled, t.txlen)) = some (some .read, 0) := by decide +kernel

/-! ## Witnesses: for each statement with hypotheses, a state and operands that meet them -/

theorem witness_DecodeOfEncodeIsIdentity :
    (Instr.setBaseline [0xFFFF, 0x0000]).wf = true ∧ (Instr.getSerialId []).wf = true := by decide +kernel
theorem witness_EncodeOfDecodeIsIdentity :
    decode [0x20, 0x61, 0x00, 0x0C, 0xFC, 0x20] = .ok (.setHumidity [0x000C], [0x20]) := by decide +kernel
theorem witness_UnlistedOpcodeHasNoMeaning :
    (∀ c : Command, c.descriptor.opcode ≠ assemble 0x20 0x04 ∧ c.descriptor.opcode ≠ assemble 0x00 0x00 ∧
      c.descriptor.opcode ≠ assemble 0xFF 0xFF) ∧
    (State.reset.withFrame [0x20, 0x04]).stalled = none ∧
    (State.reset.withFrame [0x20, 0x04]).requests = [.commandFrame [0x20, 0x04]] :=
  ⟨fun c => by cases c <;> decide +kernel, rfl, rfl⟩
theorem witness_BadParameterGroupIsRejected :
    ([0x8E68] : List Word).length < Command.setBaseline.descriptor.parameterCount ∧
    (0x4E : Byte) ≠ checksum (assemble 0x8A 0x5C) ∧
    ([] : List Word).length < Command.setHumidity.descriptor.parameterCount ∧ ([0x00, 0x0C] : List Byte).length < 3 := by
  decide +kernel
theorem witness_SmallChangesOfAGroupAreDetected :
    validGroup 0x01904C ∧ weight 0x800001 ≤ 3 ∧ (0x800001 : BitVec 24) ≠ 0 ∧ weight 0x00001F % 2 = 1 := by
  unfold validGroup; decide +kernel
/-- The undetected change of spec/95 section 2.3. -/
theorem witness_four_bits_undetected :
    validGroup 0x01904C ∧ weight (0x01904C ^^^ 0x01917D) = 4 ∧ validGroup 0x01917D := by unfold validGroup; decide +kernel
/-- A state at whose next `n` points no reset falls, because none is to come at all. -/
theorem host_quiet (writes : List WriteAnswer) (reads : List ReadAnswer) (n : Nat) : (host writes reads).quiet n :=
  State.quiet_of_nil rfl n
/-- The premise met with a reset directly after the last point it covers, for each number of points a statement names. -/
theorem witness_quiet :
    ∀ n ∈ [1, 3, 4, 5, 6, 7, 8, 12, 160, 164],
      (hostReset (List.replicate n false ++ [true]) [.ok] []).quiet n ∧
      ¬ (hostReset (List.replicate n false ++ [true]) [.ok] []).quiet (n + 1) := by decide +kernel
theorem witness_Crc8Completes : (hostReset [false, true] [] []).quiet 1 := by decide +kernel
theorem witness_LookupAnswersFromTheRegistry :
    State.reset.quiet 1 ∧
    (∀ c ∈ Command.all, "Get_Baseline" ≠ c.descriptor.name ∧ "measure_test" ≠ c.descriptor.name) ∧ 7 < 8 := by
  decide +kernel
theorem witness_EncodeBuildsTheFrame :
    ([] : List Word).length = (⟨"x", 0, 0, 0⟩ : Descriptor).parameterCount ∧
    ([1, 2, 3] : List Word).length = (⟨"x", 0xFFFF, 3, 0⟩ : Descriptor).parameterCount ∧
    ([1, 2, 3] : List Word)[2]? = some 3 ∧ State.reset.quiet 1 := by decide +kernel
theorem witness_CountMismatchProducesNothing :
    ([] : List Word).length ≠ Command.setHumidity.descriptor.parameterCount ∧
    ([0x1234] : List Word).length ≠ Command.getBaseline.descriptor.parameterCount ∧
    (Instr.setBaseline [1, 2, 3]).wf = false ∧ State.reset.Ready ∧ State.reset.quiet 3 := by decide +kernel
theorem witness_WrongLengthIsMalformed :
    ([0x01, 0x90, 0x4C, 0x00, 0x00] : List Byte).length ≠ 3 * 2 ∧ ([0x00] : List Byte).length ≠ 3 * 0 ∧
    State.reset.quiet 1 := by decide +kernel
theorem witness_DecodeIsAllOrNothing :
    (groups [0x0190] ++ 0x00 :: 0x00 :: 0x80 :: []).length = 3 * 2 ∧ (0x80 : Byte) ≠ checksum (assemble 0x00 0x00) ∧
    (groups [] ++ 0xFF :: 0xFF :: 0xFF :: []).length = 3 * 1 ∧ (0xFF : Byte) ≠ checksum (assemble 0xFF 0xFF) ∧
    State.reset.quiet 1 := by decide +kernel
theorem witness_RoundTripThroughTheCodec :
    State.reset.quiet 1 ∧ ([0x8E68, 0x8A5C] : List Word).length = Command.setBaseline.descriptor.parameterCount ∧
    ∃ u, perform (.decode [0x00, 0x20, 0x07] 1) State.reset = .next u ∧ u.returned = .words [0x0020] :=
  ⟨by decide +kernel, by decide +kernel, exists_next (by decide +kernel)⟩
theorem witness_CorruptedChecksumByteIsCaught :
    ([0x0190, 0x0000] : List Word)[1]? = some 0x0000 ∧ (0x80 : Byte) ≠ checksum 0x0000 ∧
    State.reset.quiet 1 := by decide +kernel
theorem witness_ZeroCounts :
    Command.getSerialId.descriptor.parameterCount = 0 ∧ ([0x00] : List Byte) ≠ [] ∧
    (Instr.setHumidity [0x000C]).command.descriptor.responseCount = 0 ∧ State.reset.quiet 1 ∧ (host [.ok] []).quiet 5 ∧
    ∃ t, exec (.setHumidity [0x000C]) (host [.ok] []) = .next t :=
  ⟨by decide +kernel, by decide +kernel, by decide +kernel, by decide +kernel, by decide +kernel,
    has_next (by decide +kernel)⟩
theorem witness_BlockCarriesNothingBetweenOperations :
    (∃ d ps, Operation.encode ⟨"", 0, 0, 0⟩ [] = .encode d ps) ∧ State.reset.quiet 1 :=
  ⟨⟨_, _, rfl⟩, by decide +kernel⟩
theorem witness_CommandsWithoutResponseComplete :
    (host [.ok] []).Ready ∧ (host [.ok] []).quiet 5 ∧ (host [.ok] []).writeAnswers = [.ok] := by decide +kernel
theorem witness_CommandsWithResponseComplete :
    ∀ ws ∈ [([0xFFFF] : List Word), [0x0190, 0x0000], [0x1111, 0x2222, 0x3333]],
      (host [.ok] [.bytes (groups ws)]).Ready ∧ (host [.ok] [.bytes (groups ws)]).quiet 7 ∧
      (host [.ok] [.bytes (groups ws)]).writeAnswers = [.ok] ∧
      (host [.ok] [.bytes (groups ws)]).readAnswers = [.bytes (groups ws)] ∧
      (ws.length = 1 ∨ ws.length = 2 ∨ ws.length = 3) := by decide +kernel
theorem witness_FailedWriteEndsTheTransaction :
    (Instr.setHumidity [0]).wf = true ∧ (host [.failed ⟨7⟩] []).Ready ∧ (host [.failed ⟨7⟩] []).quiet 4 ∧
    (host [.failed ⟨7⟩] []).writeAnswers = [.failed ⟨7⟩] := by decide +kernel
theorem witness_FailedReadEndsTheTransaction :
    (Instr.getSerialId []).wf = true ∧ (Instr.getSerialId []).command.descriptor.responseCount ≠ 0 ∧
    (host [.ok] [.failed ⟨7⟩]).Ready ∧ (host [.ok] [.failed ⟨7⟩]).quiet 6 ∧
    (host [.ok] [.failed ⟨7⟩]).writeAnswers = [.ok] ∧
    (host [.ok] [.failed ⟨7⟩]).readAnswers = [.failed ⟨7⟩] := by decide +kernel
theorem witness_BadResponseIsReported :
    (Instr.measureAirQuality []).wf = true ∧ (Instr.measureAirQuality []).command.descriptor.responseCount = 2 ∧
    (host [.ok] [.bytes [0x01]]).Ready ∧ (host [.ok] [.bytes [0x01]]).quiet 7 ∧
    (host [.ok] [.bytes [0x01]]).readAnswers = [.bytes [0x01]] ∧
    ([0x01] : List Byte).length ≠ 3 * 2 ∧ (host [.ok] [.bytes [0x01]]).writeAnswers = [.ok] ∧
    (host [.ok] [.bytes [0x01, 0x90, 0x4C, 0x00, 0x00, 0x80]]).readAnswers =
      [.bytes (groups [0x0190] ++ 0x00 :: 0x00 :: 0x80 :: [])] ∧ (0x80 : Byte) ≠ checksum (assemble 0x00 0x00) := by
  decide +kernel
/-- `n` write exchanges that succeed, then the answers that follow. -/
abbrev oks (n : Nat) (writes : List WriteAnswer) : List WriteAnswer := List.replicate n .ok ++ writes

/-- `k` responses with the placeholder, then the answers that follow. -/
abbrev placeholders (k : Nat) (reads : List ReadAnswer) : List ReadAnswer :=
  List.replicate k (.bytes (groups [400, 0])) ++ reads

/-- A host whose transport discards `k` polls of the warm-up loop by the placeholder; then the answers that follow. -/
def warming (k : Nat) (writes : List WriteAnswer) (reads : List ReadAnswer) : State :=
  host (oks (k + 1) writes) (placeholders k reads)

/-- The premises on the state before a poll, after any number of discarded ones: met whatever answers follow. -/
theorem warming_meets (k n : Nat) (writes : List WriteAnswer) (reads : List ReadAnswer) :
    (warming k writes reads).Ready ∧ (warming k writes reads).quiet n ∧
    (warming k writes reads).writeAnswers = oks (k + 1) writes ∧
    (warming k (.ok :: writes) reads).writeAnswers = oks (k + 2) writes ∧
    (warming k writes reads).readAnswers = placeholders k reads :=
  ⟨⟨rfl, rfl, rfl⟩, host_quiet _ _ n, rfl, by simp [warming, host, oks, List.replicate_succ'], rfl⟩

theorem witness_UnansweredExchangeBlocksForEver :
    (Instr.getSerialId []).wf = true ∧ (Instr.getSerialId []).command.descriptor.responseCount ≠ 0 ∧
    State.reset.Ready ∧ State.reset.quiet 3 ∧ State.reset.writeAnswers = [] ∧ (host [.ok] []).Ready ∧
    (host [.ok] []).quiet 3 ∧ (host [.ok] []).writeAnswers = [.ok] ∧ (host [.ok] []).readAnswers = [] ∧
    (∀ o ∈ [Operation.getSerialId, .getFeatureSetVersion, .startMeasurement true, .getAirQuality, .getBaseline,
        .setBaseline 1 2, .setHumidity (.finite 12 1)], (firstCommand State.reset.roundTies o).isSome = true) ∧
    (∀ k ∈ [0, 19], (warming k [] []).Ready ∧ k < 20 ∧ (warming k [] []).quiet (8 + 8 * k) ∧
      (warming k [] []).writeAnswers = oks (k + 1) [] ∧
      (warming k [.ok] []).readAnswers = placeholders k []) := by
  refine ⟨by decide +kernel, by decide +kernel, by decide +kernel, by decide +kernel, by decide +kernel,
    by decide +kernel, by decide +kernel, by decide +kernel, by decide +kernel, fun o ho => ?_,
    fun k hk => ⟨(warming_meets k 0 _ _).1, by revert k; decide, (warming_meets k _ _ _).2.1, rfl, rfl⟩⟩
  rw [show State.reset.roundTies = Config.roundTies from rfl]
  generalize Config.roundTies = ties
  revert o
  cases ties <;> decide +kernel
theorem witness_CommandsNeedTheBusHandle :
    ({ State.reset with busHeld := false, busReleased := true } : State).stalled = none ∧
    ({ State.reset with busHeld := false } : State).busReleased = false := by decide +kernel
theorem witness_CommandsNeverStopWithTheBusHandle : State.reset.Ready := by decide +kernel
theorem witness_AtMostOneWriteAndOneRead :
    ∃ t, exec (.getFeatureSetVersion []) (host [.ok] [.bytes [0x00, 0x20, 0x07]]) = .next t :=
  has_next (by decide +kernel)
theorem witness_CommandFrameOfTheHost :
    ∃ t, exec (.initAirQuality []) (State.reset.stall .read) = .next t ∧ (State.reset.stall .read).stalled ≠ none :=
  ⟨_, rfl, by decide +kernel⟩
theorem witness_CommandFrameOfTxbuf :
    State.reset.stalled = none ∧ (Instr.setHumidity [5]).wf = true ∧ (Instr.setHumidity []).wf = false ∧
    (∃ t, exec (.setHumidity [5]) State.reset = .next t) ∧ (∃ t, exec (.setHumidity []) State.reset = .next t) :=
  ⟨by decide +kernel, by decide +kernel, by decide +kernel, has_next (by decide +kernel), has_next (by decide +kernel)⟩
theorem witness_CommandFrameOfRxbuf :
    (∃ t, exec (.getBaseline []) (host [.ok] [.bytes [0x01]]) = .next t) ∧
    ∃ t, exec (.getBaseline []) (hostReset [true] [.ok] []) = .next t :=
  ⟨has_next (by decide +kernel), has_next (by decide +kernel)⟩
theorem witness_StepRunsTheNextRequest :
    decode [0x36, 0x82] = .ok (.getSerialId [], []) ∧
    (State.reset.withFrame [0x36, 0x82]).requests = [.commandFrame [0x36, 0x82]] ∧
    (State.reset.withFrame [0x36, 0x82]).stalled = none ∧ decode [0x20] = .error .noOpcode ∧
    decode [0x20, 0x03, 0x00] = .ok (.initAirQuality [], [0x00]) ∧
    (State.reset.setRequests [.call .shutdown]).requests = [.call .shutdown] ∧ State.reset.requests = [] ∧
    (State.reset.stall .read).stalled ≠ none ∧ State.reset.quiet 1 ∧
    (hostReset [true, false] [] []).resetLine = true :: [false] := by decide +kernel
theorem witness_ExecuteByNameIsTheInstruction :
    State.reset.Ready ∧ State.reset.quiet 1 ∧ (∀ c ∈ Command.all, "measure_test" ≠ c.descriptor.name) ∧ 7 < 8 := by
  decide +kernel

/-- A state of the machine after a transaction that ended in ChecksumMismatch, with a shutdown to come. -/
def afterBadResponse : State :=
  { State.reset with
    gi := 1
    rc := 2
    acc := 0x81
    txbuf := Memory.ofBytes [0x20, 0x08]
    txlen := 2
    rxbuf := Memory.ofBytes [0x01, 0x90, 0x4C, 0x00, 0x00, 0x80]
    rxlen := 6
    status := .checksumMismatch
    errReceived := 0x80
    errExpected := 0x81
    errIndex := 1
    polls := 20
    requests := [.call .shutdown] }

/-- A byte sequence as a buffer has a value at exactly the offsets below its length. -/
theorem isSome_read_ofBytes (a : Nat) (bs : List Byte) :
    ((Memory.ofBytes bs).read a).isSome = true ↔ a < bs.length := by simp [Memory.read_ofBytes]

theorem witness_StepKeepsTheInvariant : afterBadResponse.Inv ∧ ∃ t, step afterBadResponse = .next t := by
  refine ⟨?_, _, rfl⟩
  constructor
  case txExact => intro a; exact isSome_read_ofBytes a [0x20, 0x08]
  case rxExact => intro a; exact isSome_read_ofBytes a [0x01, 0x90, 0x4C, 0x00, 0x00, 0x80]
  all_goals decide +kernel
theorem witness_OnlyHostReadsFault :
    step (State.reset.setRequests [.call (.read (.responseWord 0))]) = .fault (.unspecifiedRead 0) ∧
    step (State.reset.setRequests [.call (.read (.txByte 0))]) = .fault (.outOfBounds 0) := ⟨rfl, rfl⟩
theorem witness_StepOnlyAppendsActs : ∃ t, step (State.reset.setRequests [.call .shutdown]) = .next t := ⟨_, rfl⟩
theorem witness_SerialIdCombinesThreeWords :
    ∀ legacy : Bool, ({ host [.ok] [.bytes (groups [1, 2, 3])] with serialIdLegacy := legacy } : State).Ready ∧
      ({ host [.ok] [.bytes (groups [1, 2, 3])] with serialIdLegacy := legacy } : State).quiet 7 ∧
      ({ host [.ok] [.bytes (groups [1, 2, 3])] with serialIdLegacy := legacy } : State).writeAnswers = [.ok] ∧
      ({ host [.ok] [.bytes (groups [1, 2, 3])] with serialIdLegacy := legacy } : State).readAnswers =
        [.bytes (groups [1, 2, 3])] := by decide +kernel
theorem witness_FeatureSetFields :
    (host [.ok] [.bytes (groups [0xFFFF])]).Ready ∧ (host [.ok] [.bytes (groups [0xFFFF])]).quiet 7 ∧
    (host [.ok] [.bytes (groups [0xFFFF])]).writeAnswers = [.ok] ∧
    (host [.ok] [.bytes (groups [0xFFFF])]).readAnswers = [.bytes (groups [0xFFFF])] := by decide +kernel
theorem witness_PairsAreInWireOrder :
    (host [.ok] [.bytes (groups [0x0190, 0])]).Ready ∧ (host [.ok] [.bytes (groups [0x0190, 0])]).quiet 7 ∧
    (host [.ok] [.bytes (groups [0x0190, 0])]).writeAnswers = [.ok] ∧
    (host [.ok] [.bytes (groups [0x0190, 0])]).readAnswers = [.bytes (groups [0x0190, 0])] := by decide +kernel
theorem witness_SetBaselineSendsTvocFirst :
    (host [.ok] []).Ready ∧ (host [.ok] []).quiet 5 ∧ (host [.ok] []).writeAnswers = [.ok] := by decide +kernel
/-- Ties at 12.5 and at the ends of the range: 65534.5 and 65535.5, 0.5 and -0.5. -/
theorem witness_HumidityIsRoundedToTheNearestWord :
    roundToNearest .halfAwayFromZero 25 2 = 13 ∧ roundToNearest .halfToEven 131069 2 = 65534 ∧
    roundToNearest .halfToEven 131071 2 = 65536 ∧ roundToNearest .halfAwayFromZero 1 2 = 1 ∧
    roundToNearest .halfToEven (-1) 2 = 0 ∧ roundToNearest .halfAwayFromZero (-1) 2 = -1 ∧
    (∀ ties : RoundTies, roundToNearest ties 65535 1 = 65535 ∧ roundToNearest ties 65536 1 = 65536 ∧
      roundToNearest ties (-1) 1 = -1) ∧ (host [.ok] []).Ready ∧ (host [.ok] []).quiet 5 := by
  refine ⟨by decide +kernel, by decide +kernel, by decide +kernel, by decide +kernel, by decide +kernel,
    by decide +kernel, fun ties => ?_, by decide +kernel⟩
  cases ties <;> decide +kernel
theorem witness_WarmupEndsOnAChangedReading :
    ∀ k ∈ [0, 19], k < 20 ∧ ((350 : Word) ≠ 400 ∨ (5 : Word) ≠ 0) ∧
      (warming k [.ok] [.bytes (groups [350, 5])]).Ready ∧
      (warming k [.ok] [.bytes (groups [350, 5])]).quiet (12 + 8 * k) ∧
      (warming k [.ok] [.bytes (groups [350, 5])]).writeAnswers = oks (k + 2) [] ∧
      (warming k [.ok] [.bytes (groups [350, 5])]).readAnswers =
        placeholders k (.bytes (groups [350, 5]) :: []) := fun k hk =>
  ⟨by revert k; decide, .inl (by decide), (warming_meets k 0 _ _).1, (warming_meets k _ _ _).2.1,
    (warming_meets k 0 [] []).2.2.2.1, rfl⟩
theorem witness_WarmupCapIsTwentyPolls :
    (warming 20 [] []).Ready ∧ (warming 20 [] []).quiet 164 ∧
    (warming 20 [] []).writeAnswers = oks 21 [] ∧
    (warming 20 [] []).readAnswers = placeholders 20 [] :=
  ⟨(warming_meets 20 0 _ _).1, (warming_meets 20 _ _ _).2.1, rfl, rfl⟩
/-- An error, a reset and a stuck exchange, each at a first command; an error in the first and in the last poll. -/
theorem witness_DerivedOperationsPropagateErrors :
    (∃ t, exec (.getSerialId []) (host [.failed ⟨7⟩] []) = .next t ∧ t.returned = .error (.busError ⟨7⟩)) ∧
    (∃ t, exec (.setBaseline [2, 1]) (hostReset [true] [.ok] []) = .next t ∧ t.returned = .nothing) ∧
    (∃ t, exec (.initAirQuality []) (host [] []) = .next t ∧ t.stalled = some .write) ∧
    (∀ ties : RoundTies, firstCommand ties .getSerialId = some (.getSerialId []) ∧
      firstCommand ties (.setBaseline 1 2) = some (.setBaseline [2, 1]) ∧
      firstCommand ties (.startMeasurement false) = some (.initAirQuality []) ∧
      firstCommand ties (.setHumidity (.finite 12 1)) = some (.setHumidity [12])) ∧
    (∀ k ∈ [0, 19], (warming k [.failed ⟨7⟩] []).Ready ∧ k < 20 ∧ (warming k [.failed ⟨7⟩] []).quiet (5 + 8 * k) ∧
      (warming k [.failed ⟨7⟩] []).writeAnswers = oks (k + 1) [.failed ⟨7⟩] ∧
      (warming k [.failed ⟨7⟩] []).readAnswers = placeholders k []) ∧
    (∀ k ∈ [0, 19], (next? (perform (.startMeasurement true) (warming k [.failed ⟨7⟩] []))).map State.returned =
      some (.error (.busError ⟨7⟩))) :=
  ⟨exists_next (by decide +kernel), exists_next (by decide +kernel), exists_next (by decide +kernel),
    fun ties => by cases ties <;> decide +kernel,
    fun k hk => ⟨(warming_meets k 0 _ _).1, by revert k; decide, (warming_meets k _ _ _).2.1, rfl, rfl⟩,
    by decide +kernel⟩
theorem witness_ShutdownReleasesExactlyOnce :
    State.reset.busHeld = true ∧ State.reset.busReleased = false ∧
    ({ State.reset with busHeld := false } : State).busHeld = false ∧
    ∃ t, step ({ State.reset with busHeld := false, busReleased := true, requests := [.call .shutdown] }) = .next t :=
  ⟨rfl, rfl, rfl, _, rfl⟩
theorem witness_ConstructionState :
    ({ State.reset with busHeld := false } : State).busHeld = false ∧ State.reset.busHeld = true := by decide +kernel
theorem witness_HostReads :
    ({ State.reset with w := [5] } : State).w[0]? = some 5 ∧ ({ State.reset with w := [5] } : State).nw ≤ 1 ∧
    0 < afterBadResponse.txlen ∧ afterBadResponse.txbuf.read 1 = some 0x08 ∧ afterBadResponse.txlen ≤ 2 := by
  decide +kernel
theorem witness_ResetAbandonsTheOperationInProgress :
    (∃ v, Operation.crc8 0xBEEF = .crc8 v) ∧ (hostReset [true] [] []).resetLine = true :: [] ∧
    (hostReset [true] [] []).Ready ∧ (hostReset [false, true, true, false] [] []).resetLine = false :: true :: true :: [false] ∧
    (Instr.getBaseline []).wf = true ∧ (Instr.getBaseline []).command.descriptor.responseCount ≠ 0 ∧
    (hostReset [false, true, false, true, false, false, true] [.ok] [.bytes []]).Ready ∧
    (hostReset [false, true, false, true, false, false, true] [.ok] [.bytes []]).writeAnswers = [.ok] ∧
    (hostReset [false, true, false, true, false, false, true] [.ok] [.bytes []]).readAnswers = [.bytes []] ∧
    (hostReset [false, true, false, true, false, false, true] [.ok] [.bytes []]).resetLine =
      [false, true, false, true, false, false, true] ++ [] ∧
    ((hostReset [true] [] []).stall .write).stalled ≠ none ∧ (hostReset [true] [] []).requests = [] := by
  refine ⟨⟨_, rfl⟩, ?_⟩; decide +kernel
/-- Resets between LOOKUP and ENCODE, in both exchanges and the delays, in a command, a derived operation and the second poll
of the warm-up loop. -/
theorem witness_ResetBetweenOperationsChangesNoResult :
    (hostReset [false, true, false, true, true, true, false, true] [.ok] [.bytes (groups [1, 2])]).Ready ∧
    (hostReset [false, true, false, true, true, true, false, true] [.ok] [.bytes (groups [1, 2])]).Spares [0, 2] ∧
    (hostReset [false, true, false, true, true, true, false, true] [.ok] [.bytes (groups [1, 2])]).Spares [6] ∧
    (Instr.getBaseline []).command.descriptor.responseCount ≠ 0 ∧
    (∀ ties : RoundTies, firstCommand ties .getBaseline = some (.getBaseline [])) ∧
    (∀ k < 20, (hostReset ([false, true, false, true, true] ++ [false, true, false, true, true, true, false, true] ++
      [false, false, false, false, true]) [.ok] []).Spares [5 + 8 * k, 7 + 8 * k, 11 + 8 * k]) := by
  refine ⟨by decide +kernel, by decide +kernel, by decide +kernel, by decide +kernel, fun ties => rfl, ?_⟩
  decide +kernel
/-- At the first and the last poll: a failed write, a failed read, a short response, a bad second group. -/
theorem witness_WarmupEndsOnTheErrorOfAPoll :
    (∀ k ∈ [0, 19], k < 20 ∧ (warming k [.failed ⟨7⟩] []).Ready ∧ (warming k [.failed ⟨7⟩] []).quiet (12 + 8 * k) ∧
      (warming k [.failed ⟨7⟩] []).writeAnswers = oks (k + 1) (.failed ⟨7⟩ :: []) ∧
      (warming k [.failed ⟨7⟩] []).readAnswers = placeholders k []) ∧
    (∀ k ∈ [0, 19], ∀ a ∈ [ReadAnswer.failed ⟨7⟩, .bytes [0x01, 0x90, 0x4C, 0x00, 0x00],
        .bytes (groups [400] ++ 0x00 :: 0x00 :: 0x80 :: [])],
      (warming k [.ok] [a]).Ready ∧ (warming k [.ok] [a]).quiet (12 + 8 * k) ∧
      (warming k [.ok] [a]).writeAnswers = oks (k + 2) [] ∧
      (warming k [.ok] [a]).readAnswers = placeholders k [a]) ∧
    ([0x01, 0x90, 0x4C, 0x00, 0x00] : List Byte).length ≠ 6 ∧
    (groups [400] ++ 0x00 :: 0x00 :: 0x80 :: []).length = 6 ∧ (0x80 : Byte) ≠ checksum (assemble 0x00 0x00) :=
  ⟨fun k hk => ⟨by revert k; decide, (warming_meets k 0 _ _).1, (warming_meets k _ _ _).2.1, (warming_meets k 0 _ []).2.2.1,
      (warming_meets k 0 [.failed ⟨7⟩] _).2.2.2.2⟩,
    fun k _ a _ => ⟨(warming_meets k 0 _ _).1, (warming_meets k _ _ _).2.1, (warming_meets k 0 [] [a]).2.2.2.1,
      (warming_meets k 0 [.ok] [a]).2.2.2.2⟩,
    by decide +kernel, by decide +kernel, by decide +kernel⟩

end Sys2Proof.Tests
end

/-! SUPPORT. The operations of the block carry nothing from one to the next (spec/10_state.md R23): each is shown to
complete with a value, or to raise an error, that its own inputs determine, from every state. -/

namespace Sys2Proof.Machine

/-- `o` hands back `r` from every state, if no reset falls inside it, with STATUS and the error record of success. -/
def AlwaysReturns (o : Operation) (r : Returned) : Prop :=
  ∀ s : State, s.quiet 1 → ∃ t, perform o s = .next t ∧ t.returned = r ∧ t.Completed

/-- STATUS and the error record hold the error `e` of the block (R157 (c)). -/
def State.Reports (s : State) (e : BlockError) : Prop :=
  s.status = e.status ∧ s.errReceived = e.received ∧ s.errExpected = e.expected ∧ s.errIndex = e.index

/-- `o` raises `e` from every state, if no reset falls inside it, and reports it in STATUS and the error record. -/
def AlwaysRaises (o : Operation) (e : BlockError) : Prop :=
  ∀ s : State, s.quiet 1 → ∃ t, perform o s = .next t ∧ t.returned = .error (.block e) ∧ t.Reports e

section
variable {α : Type} {o : Operation} {op : State → Ran α} {give : α → Returned}
  (ho : ∀ s, perform o s = (issue op s).outcome give)
include ho

theorem alwaysReturns_of_done {v : α} (h : ∀ s, ∃ u, op s = .done v u ∧ u.Completed) : AlwaysReturns o (give v) := by
  intro s hq
  obtain ⟨u, hu, hc⟩ := h (s.pass 1)
  exact ⟨u.giveBack (give v), by rw [ho, issue_quiet hq, hu, Ran.outcome_done], rfl, hc⟩

theorem alwaysRaises_of_raised {e : BlockError} (h : ∀ s, ∃ u, op s = .raised (.block e) u ∧ u.Reports e) :
    AlwaysRaises o e := by
  intro s hq
  obtain ⟨u, hu, hr⟩ := h (s.pass 1)
  exact ⟨u.giveBack (.error (.block e)), by rw [ho, issue_quiet hq, hu, Ran.outcome_raised], rfl, hr⟩

end

theorem crc8_alwaysReturns (v : Word) : AlwaysReturns (.crc8 v) (.checksum (checksum v)) :=
  alwaysReturns_of_done (fun _ => rfl) fun _ => ⟨_, rfl, rfl, rfl, rfl, rfl⟩

/-- Either spelling of LOOKUP, by what the registry, a constant, holds for it. -/
theorem lookup_alwaysReturns_or_raises {o : Operation} {found : Option Descriptor}
    (ho : ∀ s, perform o s = (issue (lookupResult found) s).outcome .descriptor) :
    (∃ r, AlwaysReturns o r) ∨ ∃ e, AlwaysRaises o e := by
  cases found with
  | some d => exact .inl ⟨_, alwaysReturns_of_done ho fun _ => ⟨_, rfl, rfl, rfl, rfl, rfl⟩⟩
  | none => exact .inr ⟨_, alwaysRaises_of_raised ho fun _ => ⟨_, rfl, rfl, rfl, rfl, rfl⟩⟩

/-- ENCODE, by whether the parameters are as many as the descriptor counts (R101, R102). -/
theorem encode_alwaysReturns_or_raises (d : Descriptor) (ps : List Word) :
    (∃ r, AlwaysReturns (.encode d ps) r) ∨ ∃ e, AlwaysRaises (.encode d ps) e := by
  by_cases hc : ps.length = d.parameterCount
  · exact .inl ⟨_, alwaysReturns_of_done (fun _ => rfl) fun s =>
      ⟨_, (opEncode_eq d ps s).trans (if_pos hc), rfl, rfl, rfl, rfl⟩⟩
  · exact .inr ⟨_, alwaysRaises_of_raised (fun _ => rfl) fun s =>
      ⟨_, (opEncode_eq d ps s).trans (if_neg hc), rfl, rfl, rfl, rfl⟩⟩

/-- DECODE, by the length of the bytes and the first group that fails (R104 to R106). -/
theorem decode_alwaysReturns_or_raises (bs : List Byte) (n : Nat) :
    (∃ r, AlwaysReturns (.decode bs n) r) ∨ ∃ e, AlwaysRaises (.decode bs n) e := by
  by_cases hlen : bs.length = 3 * n
  · obtain ⟨ws, rfl, rfl⟩ | ⟨ws, b0, b1, c, rest, hc, rfl⟩ := groups_or_first_bad n bs hlen
    · exact .inl ⟨_, alwaysReturns_of_done (fun _ => rfl) fun s => ⟨_, opDecode_groups ws s, rfl, rfl, rfl, rfl⟩⟩
    · exact .inr ⟨_, alwaysRaises_of_raised (fun _ => rfl) fun s =>
        ⟨_, opDecode_mismatch hlen hc s, rfl, rfl, rfl, rfl⟩⟩
  · exact .inr ⟨_, alwaysRaises_of_raised (fun _ => rfl) fun s => ⟨_, opDecode_length hlen s, rfl, rfl, rfl, rfl⟩⟩

/-- Settles O23, by what each operation of the block always returns or always raises; the record of an error is read off
the error itself. -/
theorem blockCarriesNothingBetweenOperations : Obligations.BlockCarriesNothingBetweenOperations := by
  intro o ho
  have hends : (∃ r, AlwaysReturns o r) ∨ ∃ e, AlwaysRaises o e := by
    obtain ⟨v, rfl⟩ | ⟨name, rfl⟩ | ⟨n, rfl⟩ | ⟨d, ps, rfl⟩ | ⟨bs, n, rfl⟩ := ho
    · exact .inl ⟨_, crc8_alwaysReturns v⟩
    · exact lookup_alwaysReturns_or_raises fun _ => rfl
    · exact lookup_alwaysReturns_or_raises fun _ => rfl
    · exact encode_alwaysReturns_or_raises d ps
    · exact decode_alwaysReturns_or_raises bs n
  obtain ⟨r, h⟩ | ⟨e, h⟩ := hends
  · exact ⟨r, .success, 0, 0, 0, h⟩
  · exact ⟨.error (.block e), e.status, e.received, e.expected, e.index, h⟩

end Sys2Proof.Machine

/-! SUPPORT. The Checksum Engine over XOR (spec/40_checksum.md R71, R72, R75, R76): one iteration is linear and
injective, so its iterates are, and the checksum is two of them applied to the word's bytes. -/

namespace Sys2Proof.Machine

/-! ## One iteration -/

/-- The second form of R72: the polynomial constant is XORed in after the shift, or zero. -/
theorem crcStep_eq (a : Byte) : crcStep a = (a <<< 1) ^^^ (if a.getLsbD 7 then crcPoly else 0) := by
  unfold crcStep
  split <;> simp

theorem crcStep_toNat (a : Byte) :
    (crcStep a).toNat = ((a.toNat <<< 1) &&& 0xFF) ^^^ (if a.toNat.testBit 7 then 0x31 else 0x00) := by
  have hmask : (a <<< 1).toNat = (a.toNat <<< 1) &&& 0xFF := by
    rw [BitVec.toNat_shiftLeft]
    exact (Nat.and_two_pow_sub_one_eq_mod _ 8).symm
  rw [crcStep_eq, BitVec.toNat_xor, hmask, BitVec.testBit_toNat]
  split <;> rfl

/-- Settles O7: the mask may stand before or after the XOR, because the polynomial constant fits in 8 bits. -/
theorem stepIsShiftAndConditionalXor : Obligations.StepIsShiftAndConditionalXor := by
  refine ⟨fun a => ?_, crcStep_toNat, by decide⟩
  rw [crcStep_toNat, Nat.and_xor_distrib_right]
  split <;> simp

@[simp] theorem crcStep_zero : crcStep 0 = 0 := rfl

/-- R76: the shift is linear over XOR, and the constant is XORed in once for each of the two top bits. -/
theorem crcStep_xor (a b : Byte) : crcStep (a ^^^ b) = crcStep a ^^^ crcStep b := by
  have hpoly : (if (a ^^^ b).getLsbD 7 then crcPoly else 0) =
      (if a.getLsbD 7 then crcPoly else 0) ^^^ (if b.getLsbD 7 then crcPoly else 0) := by
    cases ha : a.getLsbD 7 <;> cases hb : b.getLsbD 7 <;> simp [ha, hb, -BitVec.getLsbD_eq_getElem]
  simp only [crcStep_eq, hpoly, BitVec.shiftLeft_xor_distrib]
  ac_rfl

/-- The bit shifted out is not lost: the polynomial constant sets bit 0 exactly if it was one. -/
theorem crcStep_getLsbD_zero (a : Byte) : (crcStep a).getLsbD 0 = a.getLsbD 7 := by
  rw [crcStep_eq]
  cases h : a.getLsbD 7 <;> simp [crcPoly]

theorem crcStep_injective : Function.Injective crcStep := by
  intro a b h
  have htop : a.getLsbD 7 = b.getLsbD 7 := by rw [← crcStep_getLsbD_zero, h, crcStep_getLsbD_zero]
  have hshift : a <<< 1 = b <<< 1 := by
    rw [crcStep_eq, crcStep_eq, htop] at h
    exact (BitVec.xor_left_inj _).mp h
  apply BitVec.eq_of_getLsbD_eq
  intro i hi
  by_cases h7 : i = 7
  · rw [h7, htop]
  · have hbit := congrArg (BitVec.getLsbD · (i + 1)) hshift
    simpa [show i + 1 < 8 by omega, hi] using hbit

/-! ## Iterates -/

theorem crcSteps_eq_iterate (n : Nat) : crcSteps n = crcStep^[n] := by
  induction n with
  | zero => rfl
  | succ n ih => funext a; rw [crcSteps, ih, Function.iterate_succ_apply]

@[simp] theorem iterate_crcStep_zero (n : Nat) : crcStep^[n] 0 = 0 := Function.iterate_fixed crcStep_zero n

theorem iterate_crcStep_xor (n : Nat) (a b : Byte) : crcStep^[n] (a ^^^ b) = crcStep^[n] a ^^^ crcStep^[n] b := by
  induction n generalizing a b with
  | zero => rfl
  | succ n ih => simp only [Function.iterate_succ_apply, crcStep_xor, ih]

theorem iterate_crcStep_injective (n : Nat) : Function.Injective crcStep^[n] := crcStep_injective.iterate n

theorem iterate_crcStep_surjective (n : Nat) : Function.Surjective crcStep^[n] :=
  have : Finite Byte := .of_equiv _ BitVec.equivFin.toEquiv.symm
  Finite.surjective_of_injective (iterate_crcStep_injective n)

/-! ## The checksum -/

theorem crcByte_eq (acc b : Byte) : crcByte acc b = crcStep^[8] (acc ^^^ b) := by rw [crcByte, crcSteps_eq_iterate]

theorem checksum_eq (w : Word) : checksum w = crcStep^[8] (crcStep^[8] (0xFF ^^^ hi8 w) ^^^ lo8 w) := by
  simp only [checksum, crcBytes, crcByte_eq, crcInit]

/-- Settles O8: the engine's loops are iterates, and the word's bytes are its halves. -/
theorem checksumFollowsTheAlgorithm : Obligations.ChecksumFollowsTheAlgorithm := by
  intro w
  exact checksum_eq w

/-- R75 asks for a check on all 256 inputs; this is it. -/
theorem crcTable_eq_map : crcTable = (List.range 256).map fun n => crcStep^[8] (BitVec.ofNat 8 n) := by
  decide +kernel

theorem crcTable_getElem? (a : Byte) : crcTable[a.toNat]? = some (crcStep^[8] a) := by
  rw [crcTable_eq_map, List.getElem?_map, List.getElem?_range a.isLt, Option.map_some, BitVec.ofNat_toNat,
    BitVec.setWidth_eq]

/-- Settles O9, by the algorithm of R71 with each group of eight iterations read from the table. -/
theorem byteTableForm : Obligations.ByteTableForm :=
  ⟨crcTable_getElem?, fun w =>
    ⟨_, crcTable_getElem? _, by rw [crcTable_getElem?, checksumFollowsTheAlgorithm w]⟩⟩

theorem checksum_zero : checksum 0 = 0x81 := by decide +kernel

/-- The linear part of the checksum (R76): the seed's share is split off as the checksum of the word 0. -/
theorem checksum_eq_linear (w : Word) :
    checksum w = crcStep^[8] (crcStep^[8] (hi8 w) ^^^ lo8 w) ^^^ 0x81 := by
  have hseed : crcStep^[8] (crcStep^[8] 0xFF) = 0x81 := by decide +kernel
  rw [checksum_eq, iterate_crcStep_xor 8 0xFF, BitVec.xor_assoc, iterate_crcStep_xor 8 (crcStep^[8] 0xFF), hseed,
    BitVec.xor_comm]

theorem hi8_xor (a b : Word) : hi8 (a ^^^ b) = hi8 a ^^^ hi8 b := BitVec.extractLsb'_xor

theorem lo8_xor (a b : Word) : lo8 (a ^^^ b) = lo8 a ^^^ lo8 b := BitVec.extractLsb'_xor

theorem checksum_xor (a b : Word) : checksum (a ^^^ b) = checksum a ^^^ (checksum b ^^^ 0x81) := by
  simp only [checksum_eq_linear, hi8_xor, lo8_xor, iterate_crcStep_xor]
  rw [BitVec.xor_assoc _ 0x81 0x81, BitVec.xor_self, BitVec.xor_zero]
  ac_rfl

/-- The XOR of the one-bit words of the set bits of `w` below bit `n`. -/
def xorOfOneBits (w : Word) (n : Nat) : Word :=
  (List.range n).foldl (fun v i => if w.getLsbD i then v ^^^ ((1 : Word) <<< i) else v) 0

theorem xorOfOneBits_succ (w : Word) (n : Nat) : xorOfOneBits w (n + 1) =
    if w.getLsbD n then xorOfOneBits w n ^^^ ((1 : Word) <<< n) else xorOfOneBits w n := by
  rw [xorOfOneBits, List.range_succ, List.foldl_append, List.foldl_cons, List.foldl_nil, ← xorOfOneBits]

theorem getLsbD_oneBit (n : Nat) {j : Nat} (hj : j < 16) : ((1 : Word) <<< n).getLsbD j = decide (j = n) := by
  refine (BitVec.getLsbD_twoPow n j).trans ?_
  rw [← Bool.decide_and, decide_eq_decide]
  omega

theorem getLsbD_xorOfOneBits (w : Word) (n : Nat) {j : Nat} (hj : j < 16) :
    (xorOfOneBits w n).getLsbD j = (decide (j < n) && w.getLsbD j) := by
  induction n with
  | zero => simp [xorOfOneBits]
  | succ n ih =>
    rw [xorOfOneBits_succ, apply_ite (BitVec.getLsbD · j), BitVec.getLsbD_xor, getLsbD_oneBit n hj, ih]
    by_cases h : j = n
    · subst h
      cases w.getLsbD j <;> simp
    · simp [h, show j < n + 1 ↔ j < n by omega]

theorem xorOfOneBits_sixteen (w : Word) : xorOfOneBits w 16 = w :=
  BitVec.eq_of_getLsbD_eq fun j hj => by rw [getLsbD_xorOfOneBits w 16 hj, decide_eq_true hj, Bool.true_and]

theorem checksum_eq_foldl_oneBits (w : Word) : checksum w = (List.range 16).foldl
    (fun x i => if w.getLsbD i then x ^^^ (checksum ((1 : Word) <<< i) ^^^ 0x81) else x) 0x81 := by
  have hbit : ∀ v i, (if w.getLsbD i then checksum v ^^^ (checksum ((1 : Word) <<< i) ^^^ 0x81) else checksum v) =
      checksum (if w.getLsbD i then v ^^^ ((1 : Word) <<< i) else v) := by
    intro v i
    split
    · exact (checksum_xor _ _).symm
    · rfl
  calc checksum w = checksum (xorOfOneBits w 16) := by rw [xorOfOneBits_sixteen]
    _ = _ := (List.foldl_hom checksum hbit).symm
    _ = _ := by rw [checksum_zero]

/-- For a high byte and a checksum there is exactly one low byte. -/
theorem hi8_bijOn_checksum (c : Byte) : Set.BijOn hi8 {w | checksum w = c} Set.univ := by
  refine ⟨Set.mapsTo_univ _ _, fun u hu v hv hhi => ?_, fun h _ => ?_⟩
  · have hlo : lo8 u = lo8 v := by
      have hsum : checksum u = checksum v := hu.trans hv.symm
      rw [checksum_eq, checksum_eq, hhi] at hsum
      exact (BitVec.xor_right_inj _).mp (iterate_crcStep_injective 8 hsum)
    rw [← assemble_hi8_lo8 u, hhi, hlo, assemble_hi8_lo8]
  · obtain ⟨b, hb⟩ := iterate_crcStep_surjective 8 c
    refine ⟨assemble h (crcStep^[8] (0xFF ^^^ h) ^^^ b), ?_, hi8_assemble _ _⟩
    rw [Set.mem_ofPred_eq, checksum_eq, hi8_assemble, lo8_assemble, ← BitVec.xor_assoc, BitVec.xor_self,
      BitVec.zero_xor, hb]

theorem ncard_checksum_eq (c : Byte) : {w : Word | checksum w = c}.ncard = 256 := by
  rw [(hi8_bijOn_checksum c).ncard_eq, Set.ncard_univ, Nat.card_congr BitVec.equivFin.toEquiv, Nat.card_fin]
  rfl

/-- Settles O10: linearity of one iteration gives that of eight and the affine law, and injectivity of one iteration
gives the count. -/
theorem checksumIsAffineAndBalanced : Obligations.ChecksumIsAffineAndBalanced := by
  refine ⟨crcStep_xor, crcStep_zero, iterate_crcStep_xor 8, fun a b => ?_, fun a b => ?_, checksum_eq_foldl_oneBits,
    ncard_checksum_eq⟩
  · rw [checksum_xor, checksum_zero, BitVec.xor_assoc]
  · rw [checksum_xor]
    ac_rfl

end Sys2Proof.Machine

/-! SUPPORT. The Command Registry (spec/41_registry.md R80, R92): its table, which names and selectors it holds an entry
for, and LOOKUP in either spelling as one look into it. -/

namespace Sys2Proof.Machine

/-! ## The table -/

theorem command_mem_all (c : Command) : c ∈ Command.all := by cases c <;> decide

/-- Settles O6, by inspection of the eight entries. -/
theorem registryTable : Obligations.RegistryTable := by
  refine ⟨?table, ?names, ?opcodes, ?counts, ?oneCountZero, ?noResponse⟩
  case table => rfl
  case names => decide
  case opcodes => decide
  case counts => decide
  case oneCountZero => decide
  case noResponse => decide

/-! ## Names and selectors -/

theorem registryByName_eq_none_iff {name : String} :
    registryByName name = none ↔ ∀ c : Command, name ≠ c.descriptor.name := by
  simp [registryByName, List.find?_eq_none, registry, command_mem_all, eq_comm (a := name)]

theorem command_selector_le (c : Command) : c.selector ≤ 7 := by cases c <;> decide

theorem all_getElem_selector (n : Fin 8) : Command.all[n].selector = n := by revert n; decide

theorem le_seven_iff_exists_selector (n : Nat) : n ≤ 7 ↔ ∃ c : Command, c.selector = n := by
  constructor
  · intro h
    exact ⟨_, all_getElem_selector ⟨n, Nat.lt_succ_of_le h⟩⟩
  · rintro ⟨c, rfl⟩
    exact command_selector_le c

theorem registryBySelector_eq_none {n : Nat} (h : 7 < n) : registryBySelector n = none :=
  List.getElem?_eq_none h

/-! ## LOOKUP -/

section
variable {s : State} (hq : s.quiet 1)
include hq

theorem perform_lookupName (name : String) : perform (.lookupName name) s =
    (lookupResult (registryByName name) (s.pass 1)).outcome .descriptor :=
  congrArg (Ran.outcome .descriptor) (issue_quiet hq)

theorem perform_lookupSelector (n : Nat) : perform (.lookupSelector n) s =
    (lookupResult (registryBySelector n) (s.pass 1)).outcome .descriptor :=
  congrArg (Ran.outcome .descriptor) (issue_quiet hq)

end

/-- Settles O15: LOOKUP answers what the registry holds for the name or selector, and the registry holds nothing for a
name exactly if no command has it. -/
theorem lookupAnswersFromTheRegistry : Obligations.LookupAnswersFromTheRegistry := by
  refine ⟨fun c s hq => ⟨?entryByName, ?entryBySelector⟩, fun name s hq hname => ?unknownName,
    fun n s hq hn => ?unknownSelector, le_seven_iff_exists_selector, fun c => ?cornerNames, rfl⟩
  case entryByName => rw [perform_lookupName hq, registryByName_command]; rfl
  case entryBySelector => rw [perform_lookupSelector hq, registryBySelector_command]; rfl
  case unknownName => rw [perform_lookupName hq, registryByName_eq_none_iff.mpr hname]; rfl
  case unknownSelector => rw [perform_lookupSelector hq, registryBySelector_eq_none hn]; rfl
  case cornerNames =>
    have hnone : ∀ name ∈ ["measure_test", "", "Measure_Air_Quality"], registryByName name = none := by decide
    have hne : ∀ name ∈ ["measure_test", "", "Measure_Air_Quality"], name ≠ c.descriptor.name :=
      fun name h => registryByName_eq_none_iff.mp (hnone name h) c
    simpa using hne

end Sys2Proof.Machine

/-! SUPPORT. The Transaction Codec as calls (spec/42_codec.md R100, R103, R107, R109): what ENCODE and DECODE answer as
operations of the host, the round trip through both, and the counts of zero. -/

namespace Sys2Proof.Machine

/-! ## ENCODE and DECODE as calls -/

section
variable {s : State} (hq : s.quiet 1)
include hq

theorem perform_encode {d : Descriptor} {ps : List Word} (hc : ps.length = d.parameterCount) :
    perform (.encode d ps) s =
      .next (((s.pass 1).afterEncode d ps).giveBack (.frame (commandFrame d.opcode ps))) := by
  rw [perform, issue_quiet hq, opEncode_eq, if_pos hc, Ran.outcome_done]

theorem perform_decode_groups (ws : List Word) :
    perform (.decode (groups ws) ws.length) s = .next (((s.pass 1).afterDecode ws).giveBack (.words ws)) := by
  rw [perform, issue_quiet hq, opDecode_groups, Ran.outcome_done]

theorem perform_decode_length {bs : List Byte} {n : Nat} (h : bs.length ≠ 3 * n) :
    perform (.decode bs n) s =
      .next (((s.pass 1).afterMalformed bs n).giveBack (.error (.block .malformedResponse))) := by
  rw [perform, issue_quiet hq, opDecode_length h, Ran.outcome_raised]

end

/-- Words come back only from the one case of DECODE in which every group verified; an error or a reset inside the
operation hands back none. -/
theorem groups_eq_of_perform_decode {bs : List Byte} {n : Nat} {s u : State} {ws : List Word}
    (h : perform (.decode bs n) s = .next u) (hr : u.returned = .words ws) : groups ws = bs := by
  rw [perform] at h
  obtain ⟨_, hissue⟩ | ⟨_, hissue⟩ := issue_cases (opDecode bs n) s
  · obtain ⟨_, hop⟩ | ⟨vs, _, hbs, hop⟩ | ⟨_, _, _, _, _, _, _, _, hop⟩ := opDecode_cases bs n (s.pass 1)
    all_goals
      rw [hissue, hop] at h
      obtain rfl := Host.Outcome.next.inj h
    · cases hr
    · obtain rfl : vs = ws := Returned.words.inj hr
      exact hbs.symm
    · cases hr
  · rw [hissue] at h
    obtain rfl := Host.Outcome.next.inj h
    cases hr

/-- Settles O20: DECODE of `groups ws` gives `ws` back, a whole command frame is two bytes longer than groups can be, and
DECODE returns words for their groups alone. -/
theorem roundTripThroughTheCodec : Obligations.RoundTripThroughTheCodec := by
  refine ⟨fun d ps s hq hc => ?encodeThenDecode, fun ws s hq => ⟨_, perform_decode_groups hq ws, rfl⟩,
    fun bs n s u ws => groups_eq_of_perform_decode⟩
  case encodeThenDecode =>
    have hlen : (commandFrame d.opcode ps).length ≠ 3 * ps.length := by
      rw [commandFrame_length]
      omega
    exact ⟨_, _, perform_encode hq hc, rfl, rfl, fun s' hq' =>
      ⟨⟨_, perform_decode_groups hq' ps, rfl, rfl⟩, ⟨_, perform_decode_length hq' hlen, rfl⟩⟩⟩

/-! ## Commands without response -/

/-- From `s` to `t` the host started no read exchange and took none of the transport's answers to reads, and DECODE was
not issued: its registers RXBUF, RXLEN and W are as before, unless a reset fell at one of the `n` points passed. -/
structure NoResponseTaken (n : Nat) (s t : State) : Prop where
  resetLine : t.resetLine = s.resetLine.drop n
  registers : s.quiet n → t.rxbuf = s.rxbuf ∧ t.rxlen = s.rxlen ∧ t.w = s.w
  readAnswers : t.readAnswers = s.readAnswers
  events : ∃ es, t.events = s.events ++ es ∧ ∀ e ∈ es, ∀ a l, e ≠ .busRead a l

namespace NoResponseTaken

variable {m n : Nat} {s t u : State} {d : Descriptor} {ps : List Word}

theorem trans (h : NoResponseTaken m s t) (h' : NoResponseTaken n t u) : NoResponseTaken (m + n) s u where
  resetLine := by rw [h'.resetLine, h.resetLine, List.drop_drop]
  registers hq := by
    obtain ⟨hm, hn⟩ := State.quiet_add.mp hq
    obtain ⟨hbuf, hlen, hw⟩ := h.registers hm
    obtain ⟨hbuf', hlen', hw'⟩ := h'.registers (by rwa [State.quiet, h.resetLine])
    exact ⟨hbuf'.trans hbuf, hlen'.trans hlen, hw'.trans hw⟩
  readAnswers := h'.readAnswers.trans h.readAnswers
  events := by
    obtain ⟨es, hes, hno⟩ := h.events
    obtain ⟨es', hes', hno'⟩ := h'.events
    refine ⟨es ++ es', by rw [hes', hes, List.append_assoc], fun e he => ?_⟩
    exact (List.mem_append.mp he).elim (hno e) (hno' e)

theorem of_reached (h : Reached n s u) : NoResponseTaken n s u where
  resetLine := h.resetLine
  registers hq := by
    rw [h.quiet hq]
    exact ⟨rfl, rfl, rfl⟩
  readAnswers := by rcases h with rfl | ⟨_, rfl⟩ <;> rfl
  events := ⟨[], by rcases h with rfl | ⟨_, rfl⟩ <;> simp, by simp⟩

theorem refl : NoResponseTaken 0 s s := of_reached Reached.pass

theorem giveBack (r : Returned) : NoResponseTaken 0 s (s.giveBack r) := { refl with }

theorem stall (x : Exchange) : NoResponseTaken 0 s (s.stall x) := { refl with }

theorem afterCountMismatch : NoResponseTaken 0 s (s.afterCountMismatch d ps) := { refl with }

theorem afterWrite (wa : List WriteAnswer) : NoResponseTaken 0 s (s.afterWrite d ps wa) :=
  { refl with events := ⟨_, rfl, by simp⟩ }

theorem afterSettle (wa : List WriteAnswer) : NoResponseTaken 0 s (s.afterSettle d ps wa) :=
  { refl with events := ⟨_, rfl, by simp⟩ }

theorem of_reset_inside (h : (s.pass m).resetFalls = true) :
    NoResponseTaken (m + 1) s (resetBlock (s.pass (m + 1))) :=
  of_reached (.inr ⟨State.not_quiet h (Nat.lt_succ_self m), rfl⟩)

end NoResponseTaken

/-- A command that expects no response ends before the read exchange in every case, at the fifth point at the latest. -/
theorem CommandEnds.noResponseTaken {c : Command} {ps : List Word} {s u : State} (h : CommandEnds c ps s u)
    (h0 : c.descriptor.responseCount = 0) : ∃ n ≤ 5, NoResponseTaken n s u := by
  open NoResponseTaken in
  cases h with
  | unchanged _ => exact ⟨0, by omega, refl⟩
  | abandonedEarly _ _ hreset => exact ⟨_, by omega, of_reset_inside hreset⟩
  | countMismatch _ hu _ => exact ⟨3, by omega, (of_reached hu).trans afterCountMismatch⟩
  | writeStalls _ hu _ _ hv =>
    exact ⟨4, by omega, (((of_reached hu).trans (afterWrite [])).trans (of_reached hv)).trans (stall .write)⟩
  | writeFails _ hu _ _ hv => exact ⟨4, by omega, ((of_reached hu).trans (afterWrite _)).trans (of_reached hv)⟩
  | noResponse _ hu _ _ _ hv => exact ⟨5, by omega, ((of_reached hu).trans (afterSettle _)).trans (of_reached hv)⟩
  | readStalls _ _ _ _ hne | readFails _ _ _ _ hne | abandonedLate _ _ _ _ hne | malformed _ _ _ _ hne
  | words _ _ _ _ hne | mismatch _ _ _ _ hne => exact absurd h0 hne

theorem exec_noResponseTaken {i : Instr} {s t : State} (h0 : i.command.descriptor.responseCount = 0)
    (h : exec i s = .next t) : ∃ n ≤ 5, NoResponseTaken n s t := by
  obtain ⟨u, hends, rfl | ⟨r, rfl⟩⟩ := exec_ends h
  · exact hends.noResponseTaken h0
  · obtain ⟨n, hn, htaken⟩ := hends.noResponseTaken h0
    exact ⟨n, hn, htaken.trans (.giveBack r)⟩

/-- Settles O22: the codec's three clauses are its calls at count zero; the host's is that a command without response ends
before its read exchange. -/
theorem zeroCounts : Obligations.ZeroCounts := by
  refine ⟨fun d s hq hc => ?encodeNothing, fun s hq => ?decodeNothing, fun bs s hq hne => ?decodeSomething,
    fun i s t h0 h => ?noReadExchange⟩
  case encodeNothing => exact ⟨_, perform_encode hq (ps := []) hc.symm, rfl, rfl⟩
  case decodeNothing => exact ⟨_, perform_decode_groups hq [], rfl, rfl⟩
  case decodeSomething => exact ⟨_, perform_decode_length hq (mt List.length_eq_zero_iff.mp hne), rfl⟩
  case noReadExchange =>
    obtain ⟨n, hn, htaken⟩ := exec_noResponseTaken h0 h
    obtain ⟨es, hes, hno⟩ := htaken.events
    refine ⟨fun hq => htaken.registers (State.quiet_mono hq hn), htaken.readAnswers, ?_⟩
    rwa [hes, List.drop_left]

end Sys2Proof.Machine

/-! SUPPORT. The identity operations and set_baseline (spec/43_controller.md R123, R124, R129): EXECUTE of a command whose
exchanges succeed, and the operand forms as numbers. -/

namespace Sys2Proof.Machine

/-! ## EXECUTE whose exchanges succeed -/

section
variable {c : Command} {ps ws : List Word} {s : State} {wa : List WriteAnswer} {ra : List ReadAnswer}
  (h : s.Ready) (hc : ps.length = c.descriptor.parameterCount) (hw : s.writeAnswers = .ok :: wa)
include h hc hw

theorem execute_noResponse (hq : s.quiet 5) (hr : c.descriptor.responseCount = 0) :
    execute c ps s = .done [] ((s.pass 5).afterSettle c.descriptor ps wa) :=
  transact_noResponse h hq (execute_lookup c) hc hw hr

theorem execute_words (hq : s.quiet 7) (hr : c.descriptor.responseCount ≠ 0)
    (hws : ws.length = c.descriptor.responseCount) (ha : s.readAnswers = .bytes (groups ws) :: ra) :
    execute c ps s = .done ws (((s.pass 7).afterRead c.descriptor ps wa ra).afterDecode ws) := by
  rw [execute, transact_response h hq (execute_lookup c) hc hw hr ha, ← hws, opDecode_groups]

end

theorem State.readW_afterDecode {ws : List Word} {i : Nat} {v : Word} (hv : ws[i]? = some v) (s : State) :
    (s.afterDecode ws).readW i = .ok v := by
  simp only [State.readW, State.afterDecode, hv]

/-! ## The operand forms as numbers -/

theorem combineSerial_toNat (hi mid lo : Word) :
    (combineSerial hi mid lo).toNat = (hi.toNat <<< 32) ||| (mid.toNat <<< 16) ||| lo.toNat := by
  simp only [combineSerial, BitVec.toNat_append, Nat.shiftLeft_or_distrib, ← Nat.shiftLeft_add]

theorem serialId_toNat (legacy : Bool) (w0 w1 w2 : Word) :
    (serialId legacy w0 w1 w2).toNat =
      (w0.toNat <<< 32) ||| (w1.toNat <<< 16) ||| (if legacy then w0.toNat else w2.toNat) := by
  cases legacy <;> exact combineSerial_toNat _ _ _

theorem productType_toNat (v : Word) : (productType v).toNat = v.toNat / 4096 := by
  have hlt : v.toNat / 4096 < 16 := by omega
  rw [productType, BitVec.extractLsb'_toNat, Nat.shiftRight_eq_div_pow]
  exact Nat.mod_eq_of_lt hlt

theorem featureVersion_toNat (v : Word) : (featureVersion v).toNat = v.toNat % 256 := by
  rw [featureVersion, lo8, BitVec.extractLsb'_toNat, Nat.shiftRight_zero]

/-! ## The operations -/

/-- Settles O43: the transaction leaves the three words in W, and the identifier they combine to is the number of R123,
under either setting of SERIAL_ID_LEGACY. -/
theorem serialIdCombinesThreeWords : Obligations.SerialIdCombinesThreeWords := by
  intro s wa ra w0 w1 w2 h hq hw ha
  refine ⟨serialId s.serialIdLegacy w0 w1 w2, ?nextState, serialId_toNat _ _ _ _⟩
  case nextState =>
    have hrun := execute_words (c := .getSerialId) (ps := []) h rfl hw hq (by decide) rfl ha
    rw [perform, getSerialId, hrun, Ran.bind_done, State.readW_afterDecode rfl, Ran.get_ok,
      State.readW_afterDecode rfl, Ran.get_ok, State.readW_afterDecode rfl, Ran.get_ok, Ran.outcome_done]
    rfl

/-- Settles O44: the transaction leaves the word in W, and its two fields are its quotient by 4096 and its remainder by
256, so that bits 11:8 are in neither. -/
theorem featureSetFields : Obligations.FeatureSetFields := by
  intro s wa ra v h hq hw ha
  refine ⟨productType v, featureVersion v, ?nextState, productType_toNat v, featureVersion_toNat v⟩
  case nextState =>
    have hrun := execute_words (c := .getFeatureSetVersion) (ps := []) h rfl hw hq (by decide) rfl ha
    rw [perform, getFeatureSetVersion, hrun, Ran.bind_done, State.readW_afterDecode rfl, Ran.get_ok, Ran.outcome_done]
    rfl

/-- Settles O46: the operation is EXECUTE of set_baseline with the parameters in the order [tvoc, eco2], which the frame
keeps. -/
theorem setBaselineSendsTvocFirst : Obligations.SetBaselineSendsTvocFirst := by
  intro s wa eco2 tvoc h hq hw
  refine ⟨?nextState, ?wireBytes⟩
  case nextState =>
    have hrun := execute_noResponse (c := .setBaseline) (ps := [tvoc, eco2]) h rfl hw hq rfl
    rw [perform, setBaseline, hrun, Ran.bind_done, Ran.outcome_done]
    rfl
  case wireBytes => rfl

end Sys2Proof.Machine

/-! SUPPORT. Command frames (spec/30_encoding.md R50 to R57): the receiver's reading of parameter groups, group by
group, and of a whole frame, from either side. -/

namespace Sys2Proof.Machine

/-! ## Commands, opcodes and instructions -/

@[simp] theorem command_instr (c : Command) (ps : List Word) : (c.instr ps).command = c := by cases c <;> rfl

@[simp] theorem parameters_instr (c : Command) (ps : List Word) : (c.instr ps).parameters = ps := by cases c <;> rfl

theorem instr_command_parameters (i : Instr) : i.command.instr i.parameters = i := by cases i <;> rfl

@[simp] theorem commandOfOpcode_opcode (c : Command) : commandOfOpcode c.descriptor.opcode = some c := by
  cases c <;> rfl

theorem opcode_of_commandOfOpcode {opcode : Word} {c : Command} (h : commandOfOpcode opcode = some c) :
    c.descriptor.opcode = opcode := by
  simpa using List.find?_some h

theorem commandOfOpcode_eq_none_iff {opcode : Word} :
    commandOfOpcode opcode = none ↔ ∀ c : Command, c.descriptor.opcode ≠ opcode := by
  simp [commandOfOpcode, List.find?_eq_none, command_mem_all]

/-! ## Parameter groups -/

/-- One group that verifies, in front of whatever follows. -/
theorem decodeGroups_groupBytes (n g : Nat) (w : Word) (bs : List Byte) :
    decodeGroups (n + 1) g (groupBytes w ++ bs) = (decodeGroups n (g + 1) bs).map fun x => (w :: x.1, x.2) := by
  simp only [groupBytes, List.cons_append, List.nil_append, decodeGroups, assemble_hi8_lo8, if_true]
  cases decodeGroups n (g + 1) bs <;> rfl

/-- Groups that verify are read off the front; what follows is read as if they were not there, but for its index. -/
theorem decodeGroups_groups (ps : List Word) (n g : Nat) (bs : List Byte) :
    decodeGroups (ps.length + n) g (groups ps ++ bs) =
      (decodeGroups n (g + ps.length) bs).map fun x => (ps ++ x.1, x.2) := by
  induction ps generalizing g with
  | nil =>
    simp only [groups, List.length_nil, Nat.zero_add, Nat.add_zero, List.nil_append]
    cases decodeGroups n g bs <;> rfl
  | cons p ps ih =>
    have hlen : (p :: ps).length + n = (ps.length + n) + 1 := by simp only [List.length_cons]; omega
    have hidx : g + 1 + ps.length = g + (p :: ps).length := by simp only [List.length_cons]; omega
    rw [groups, List.append_assoc, hlen, decodeGroups_groupBytes, ih, hidx]
    cases decodeGroups n (g + (p :: ps).length) bs <;> rfl

/-- Groups are accepted only if they verify. -/
theorem eq_groups_of_decodeGroups {n g : Nat} {bs rest : List Byte} {ps : List Word}
    (h : decodeGroups n g bs = .ok (ps, rest)) : ps.length = n ∧ bs = groups ps ++ rest := by
  induction n, g, bs using decodeGroups.induct generalizing ps rest with
  | case1 g bs =>
    obtain ⟨rfl, rfl⟩ : [] = ps ∧ bs = rest := by simpa [decodeGroups] using h
    exact ⟨rfl, rfl⟩
  | case2 n g b0 b1 bs ws left hgroups ih =>
    obtain ⟨rfl, rfl⟩ : assemble b0 b1 :: ws = ps ∧ left = rest := by simpa [decodeGroups, hgroups] using h
    obtain ⟨hlen, hbs⟩ := ih hgroups
    exact ⟨by rw [List.length_cons, hlen], by simp [hbs, groups, groupBytes]⟩
  | case3 n g b0 b1 bs e hgroups => simp [decodeGroups, hgroups] at h
  | case4 n g b0 b1 crc bs hcrc => simp [decodeGroups, hcrc] at h
  | case5 n g bs hshort => simp [decodeGroups] at h

theorem decodeGroups_badChecksum (n g : Nat) {b0 b1 crc : Byte} (h : crc ≠ checksum (assemble b0 b1)) (bs : List Byte) :
    decodeGroups (n + 1) g (b0 :: b1 :: crc :: bs) = .error (.badChecksum g) := by
  rw [decodeGroups, if_neg h]

theorem decodeGroups_truncated (n g : Nat) {bs : List Byte} (h : bs.length < 3) :
    decodeGroups (n + 1) g bs = .error (.truncated g) := by
  match bs, h with
  | [], _ | [_], _ | [_, _], _ => rfl
  | _ :: _ :: _ :: _, h =>
    simp only [List.length_cons] at h
    omega

/-! ## Frames -/

theorem decode_unknownOpcode {b0 b1 : Byte} (h : ∀ c : Command, c.descriptor.opcode ≠ assemble b0 b1) (bs : List Byte) :
    decode (b0 :: b1 :: bs) = .error (.unknownOpcode (assemble b0 b1)) := by
  rw [decode, commandOfOpcode_eq_none_iff.mpr h]

theorem decode_opcode (c : Command) (bs : List Byte) :
    decode (hi8 c.descriptor.opcode :: lo8 c.descriptor.opcode :: bs) =
      (decodeGroups c.descriptor.parameterCount 0 bs).map fun x => (c.instr x.1, x.2) := by
  rw [decode, assemble_hi8_lo8, commandOfOpcode_opcode]
  cases h : decodeGroups c.descriptor.parameterCount 0 bs <;> simp only [h] <;> rfl

/-- A frame whose first groups verify, with `n` groups still to read. -/
theorem decode_commandFrame {c : Command} {ps : List Word} {n : Nat} (h : c.descriptor.parameterCount = ps.length + n)
    (bs : List Byte) :
    decode (commandFrame c.descriptor.opcode ps ++ bs) =
      (decodeGroups n ps.length bs).map fun x => (c.instr (ps ++ x.1), x.2) := by
  rw [commandFrame, List.cons_append, List.cons_append, decode_opcode, h, decodeGroups_groups, Nat.zero_add]
  cases decodeGroups n ps.length bs <;> rfl

/-- Settles O1: the groups of the frame are as many as the opcode's command counts, and each gives its word back. -/
theorem decodeOfEncodeIsIdentity : Obligations.DecodeOfEncodeIsIdentity := by
  intro i rest hwf
  have hcount : i.command.descriptor.parameterCount = i.parameters.length + 0 := (wf_iff.mp hwf).symm
  rw [encode, decode_commandFrame hcount, decodeGroups, Except.map, List.append_nil, instr_command_parameters]

/-- Settles O2: the opcode found is the command's own, and the groups accepted verify and are as many as it counts. -/
theorem encodeOfDecodeIsIdentity : Obligations.EncodeOfDecodeIsIdentity := by
  intro bs rest i h
  match bs with
  | [] | [_] => cases h
  | b0 :: b1 :: bs =>
    cases hc : commandOfOpcode (assemble b0 b1) with
    | none => simp [decode, hc] at h
    | some c =>
      have hop := opcode_of_commandOfOpcode hc
      have hb0 : b0 = hi8 c.descriptor.opcode := by rw [hop, hi8_assemble]
      have hb1 : b1 = lo8 c.descriptor.opcode := by rw [hop, lo8_assemble]
      subst hb0 hb1
      rw [decode_opcode] at h
      cases hg : decodeGroups c.descriptor.parameterCount 0 bs with
      | error e => rw [hg] at h; cases h
      | ok x =>
        obtain ⟨ps, left⟩ := x
        rw [hg] at h
        cases h
        obtain ⟨hlen, rfl⟩ := eq_groups_of_decodeGroups hg
        exact ⟨wf_iff.mpr (by simpa using hlen), by simp [encode, commandFrame]⟩

/-- Settles O3, by reading the eight frames. -/
theorem writtenFramesDecode : Obligations.WrittenFramesDecode := by
  unfold Obligations.WrittenFramesDecode
  decide +kernel

/-- Settles O5: the groups before the bad one verify, so it is met with its index. -/
theorem badParameterGroupIsRejected : Obligations.BadParameterGroupIsRejected := by
  refine ⟨fun c ps b0 b1 crc rest hps hcrc => ?badGroup, fun c ps rest hps hrest => ?cutGroup⟩
  all_goals
    obtain ⟨n, hn⟩ := Nat.exists_eq_add_of_lt hps
    rw [decode_commandFrame (n := n + 1) (by omega)]
  case badGroup => rw [decodeGroups_badChecksum _ _ hcrc, Except.map]
  case cutGroup => rw [decodeGroups_truncated _ _ hrest, Except.map]

/-! ## Opcodes without a command -/

/-- The opcodes of R55, one per command. -/
def listedOpcodes : List Word := Command.all.map fun c => c.descriptor.opcode

theorem unlisted_iff {opcode : Word} : (∀ c : Command, c.descriptor.opcode ≠ opcode) ↔ opcode ∉ listedOpcodes := by
  simp [listedOpcodes, command_mem_all]

theorem ncard_unlisted : {opcode : Word | ∀ c : Command, c.descriptor.opcode ≠ opcode}.ncard = 65528 := by
  have hset : {opcode : Word | ∀ c : Command, c.descriptor.opcode ≠ opcode} = (listedOpcodes.toFinset : Set Word)ᶜ := by
    ext opcode
    simp [unlisted_iff]
  have hfin : Finite Word := .of_equiv _ BitVec.equivFin.toEquiv.symm
  have hcard : Nat.card Word = 65536 := by rw [Nat.card_congr BitVec.equivFin.toEquiv, Nat.card_fin]; rfl
  have height : listedOpcodes.toFinset.card = 8 := by decide
  rw [hset, Set.ncard_compl, Set.ncard_coe_finset, hcard, height]

end Sys2Proof.Machine

/-! SUPPORT. The step (spec/10_state.md R10, spec/20_memory.md R41): what it does with the next request, said once per
kind of request. -/

namespace Sys2Proof.Machine

/-! ## A byte sequence as one frame -/

theorem decodeFrame_of_ok {bs : List Byte} {i : Instr} (h : decode bs = .ok (i, [])) : decodeFrame bs = .ok i := by
  rw [decodeFrame, h]

theorem decodeFrame_of_error {bs : List Byte} {e : DecodeError} (h : decode bs = .error e) :
    decodeFrame bs = .error e := by
  rw [decodeFrame, h]

theorem decodeFrame_of_left {bs left : List Byte} {i : Instr} (h : decode bs = .ok (i, left)) (hl : left ≠ []) :
    decodeFrame bs = .error (.trailingBytes left.length) := by
  cases left with
  | nil => exact absurd rfl hl
  | cons b left => rw [decodeFrame, h]

/-! ## One step -/

section
variable {s : State}

theorem step_stalled (h : s.stalled ≠ none) : step s = .next s.idlePoint := by
  rw [step, fetch, if_pos (Option.isSome_iff_ne_none.mpr h)]

theorem step_idle (h : s.requests = []) : step s = .next s.idlePoint := by
  by_cases hs : s.stalled = none
  · simp [step, fetch, hs, h]
  · exact step_stalled hs

variable (hs : s.stalled = none) {rs : List Request}
include hs

theorem step_frame {bs : List Byte} {i : Instr} (hr : s.requests = .commandFrame bs :: rs)
    (hd : decodeFrame bs = .ok i) :
    step s = exec i (s.setRequests rs) := by
  simp [step, fetch, hs, hr, hd]

theorem step_noFrame {bs : List Byte} {e : DecodeError} (hr : s.requests = .commandFrame bs :: rs)
    (hd : decodeFrame bs = .error e) : step s = .refused (.undecodable e) := by
  simp [step, fetch, hs, hr, hd]

theorem step_call {o : Operation} (hr : s.requests = .call o :: rs) : step s = perform o (s.setRequests rs) := by
  simp [step, fetch, hs, hr]

end

/-- Everything a step can be. -/
theorem step_cases (s : State) :
    step s = .next s.idlePoint ∨
    (∃ e, step s = .refused (.undecodable e)) ∨
    s.stalled = none ∧ ((∃ bs rs i, s.requests = .commandFrame bs :: rs ∧ step s = exec i (s.setRequests rs)) ∨
      ∃ o rs, s.requests = .call o :: rs ∧ step s = perform o (s.setRequests rs)) := by
  by_cases hs : s.stalled = none
  swap
  · exact .inl (step_stalled hs)
  cases hr : s.requests with
  | nil => exact .inl (step_idle hr)
  | cons r rs =>
    right
    cases r with
    | call o => exact .inr ⟨hs, .inr ⟨o, rs, rfl, step_call hs hr⟩⟩
    | commandFrame bs =>
      cases hd : decodeFrame bs with
      | error e => exact .inl ⟨e, step_noFrame hs hr hd⟩
      | ok i => exact .inr ⟨hs, .inl ⟨bs, rs, i, rfl, step_frame hs hr hd⟩⟩

/-- Settles O4: the decoder finds no command for such an opcode, and there are eight commands with eight opcodes. -/
theorem unlistedOpcodeHasNoMeaning : Obligations.UnlistedOpcodeHasNoMeaning := by
  refine ⟨fun b0 b1 rest h => ⟨decode_unknownOpcode h rest, fun s rs hs hr => ?_⟩, fun _ => unlisted_iff,
    ncard_unlisted⟩
  exact step_noFrame hs hr (decodeFrame_of_error (decode_unknownOpcode h rest))

theorem resetFalls_of_resetLine {s : State} {rest : List Bool} (h : s.resetLine = true :: rest) :
    s.resetFalls = true := by
  rw [State.resetFalls, h]
  rfl

theorem State.idlePoint_reset {s : State} {rest : List Bool} (h : s.resetLine = true :: rest) :
    s.idlePoint = resetBlock (s.pass 1) := if_pos (resetFalls_of_resetLine h)

/-- Settles O36, kind of request by kind of request. -/
theorem stepRunsTheNextRequest : Obligations.StepRunsTheNextRequest := by
  refine fun s => ⟨fun bs rs i hs hr hd => ?frame, fun o rs hs hr => step_call hs hr, fun bs rs e hs hr hd => ?noFrame,
    fun bs left rs i hs hr hd hl => ?trailing, step_idle, step_stalled, State.idlePoint_quiet, fun rest hline => ?reset⟩
  case frame => exact step_frame hs hr (decodeFrame_of_ok hd)
  case noFrame => exact step_noFrame hs hr (decodeFrame_of_error hd)
  case trailing => exact step_noFrame hs hr (decodeFrame_of_left hd hl)
  case reset => exact State.idlePoint_reset hline

end Sys2Proof.Machine

/-! SUPPORT. What the checksum detects (spec/40_checksum.md section 2). A change of a group goes undetected exactly if
its syndrome is zero; the syndrome is linear over XOR, and those of the 24 one-bit changes are distinct and of odd
parity. -/

namespace Sys2Proof.Machine

/-- Settles O12: the third byte is XORed into the checksum of the first two, and eight iterations are injective. -/
theorem residueIsZeroExactlyOnValidGroups : Obligations.ResidueIsZeroExactlyOnValidGroups := by
  intro b0 b1 c
  have hrun : crcBytes 0xFF [b0, b1, c] = crcStep^[8] (checksum (assemble b0 b1) ^^^ c) := by
    simp only [crcBytes, crcByte_eq, checksum_eq, hi8_assemble, lo8_assemble]
  calc crcBytes 0xFF [b0, b1, c] = 0
      ↔ crcStep^[8] (checksum (assemble b0 b1) ^^^ c) = crcStep^[8] 0 := by rw [hrun, iterate_crcStep_zero]
    _ ↔ checksum (assemble b0 b1) ^^^ c = 0 := (iterate_crcStep_injective 8).eq_iff
    _ ↔ c = checksum (assemble b0 b1) := BitVec.xor_eq_zero_iff.trans eq_comm

/-! ## The syndrome of a change -/

/-- What a change of a group adds to the difference between the checksum of its word and its CRC field. -/
def syndrome (e : BitVec 24) : Byte := checksum (e.extractLsb' 8 16) ^^^ 0x81 ^^^ e.extractLsb' 0 8

theorem syndrome_xor (a b : BitVec 24) : syndrome (a ^^^ b) = syndrome a ^^^ syndrome b := by
  simp only [syndrome, BitVec.extractLsb'_xor, checksum_xor]
  ac_rfl

theorem validGroup_xor_iff {g e : BitVec 24} (h : validGroup g) : validGroup (g ^^^ e) ↔ syndrome e = 0 := by
  rw [validGroup] at h
  rw [validGroup, BitVec.extractLsb'_xor, BitVec.extractLsb'_xor, checksum_xor, h, BitVec.xor_right_inj]
  exact eq_comm.trans BitVec.xor_eq_zero_iff.symm

/-! ## A change as the sum of its bits -/

/-- The change that turns over the bits of a list, one after the other. -/
def flips (is : List Nat) : BitVec 24 := is.foldr (fun i e => BitVec.twoPow 24 i ^^^ e) 0

/-- The bits a change turns over. -/
def setBits (e : BitVec 24) : List Nat := (List.range 24).filter fun i => e.getLsbD i

theorem weight_eq_length_setBits (e : BitVec 24) : weight e = (setBits e).length := List.countP_eq_length_filter

theorem nodup_setBits (e : BitVec 24) : (setBits e).Nodup := List.nodup_range.filter _

theorem mem_setBits {e : BitVec 24} {i : Nat} : i ∈ setBits e ↔ i < 24 ∧ e.getLsbD i = true := by
  simp [setBits]

theorem getLsbD_flips {is : List Nat} (hn : is.Nodup) {j : Nat} (hj : j < 24) :
    (flips is).getLsbD j = decide (j ∈ is) := by
  induction is with
  | nil => simp [flips]
  | cons i is ih =>
    obtain ⟨hi, hn⟩ := List.nodup_cons.mp hn
    have hcons : flips (i :: is) = BitVec.twoPow 24 i ^^^ flips is := rfl
    rw [hcons, BitVec.getLsbD_xor, BitVec.getLsbD_twoPow, ih hn]
    by_cases hij : i = j
    · subst hij
      simp [hi, hj]
    · simp [hij, Ne.symm hij]

theorem flips_setBits (e : BitVec 24) : flips (setBits e) = e := by
  apply BitVec.eq_of_getLsbD_eq
  intro j hj
  rw [getLsbD_flips (nodup_setBits e) hj]
  simp [mem_setBits, hj]

/-! ## Parity -/

/-- Whether an odd number of a byte's bits at the places of a list is set. -/
def oddBits (a : Byte) (is : List Nat) : Bool := is.foldr (fun i p => a.getLsbD i ^^ p) false

/-- Whether an odd number of bits of a byte is set. -/
def oddParity (a : Byte) : Bool := oddBits a (List.range 8)

theorem oddBits_xor (a b : Byte) (is : List Nat) : oddBits (a ^^^ b) is = (oddBits a is ^^ oddBits b is) := by
  induction is with
  | nil => rfl
  | cons i is ih =>
    have hcons : ∀ c, oddBits c (i :: is) = (c.getLsbD i ^^ oddBits c is) := fun _ => rfl
    rw [hcons, hcons, hcons, ih, BitVec.getLsbD_xor, Bool.xor_assoc, Bool.xor_assoc, Bool.xor_left_comm (b.getLsbD i)]

theorem oddParity_xor (a b : Byte) : oddParity (a ^^^ b) = (oddParity a ^^ oddParity b) := oddBits_xor a b _

theorem oddParity_syndrome_oneBit : ∀ i < 24, oddParity (syndrome (BitVec.twoPow 24 i)) = true := by decide +kernel

theorem syndrome_oneBit_injective :
    ∀ i < 24, ∀ j < 24, syndrome (BitVec.twoPow 24 i) = syndrome (BitVec.twoPow 24 j) → i = j := by decide +kernel

theorem oddParity_syndrome_flips {is : List Nat} (h : ∀ i ∈ is, i < 24) :
    oddParity (syndrome (flips is)) = decide (is.length % 2 = 1) := by
  induction is with
  | nil => decide +kernel
  | cons i is ih =>
    obtain ⟨hi, his⟩ := List.forall_mem_cons.mp h
    have hcons : flips (i :: is) = BitVec.twoPow 24 i ^^^ flips is := rfl
    rw [hcons, syndrome_xor, oddParity_xor, oddParity_syndrome_oneBit i hi, ih his, List.length_cons, Bool.true_xor,
      ← decide_not, decide_eq_decide]
    omega

/-- An undetected change turns over an even number of bits. -/
theorem weight_even_of_syndrome {e : BitVec 24} (h : syndrome e = 0) : weight e % 2 = 0 := by
  have hparity := oddParity_syndrome_flips (is := setBits e) fun i hi => (mem_setBits.mp hi).1
  rw [flips_setBits, h, ← weight_eq_length_setBits, show oddParity 0 = false by decide, eq_comm,
    decide_eq_false_iff_not] at hparity
  omega

/-- An undetected change turns over no two bits. -/
theorem weight_ne_two_of_syndrome {e : BitVec 24} (h : syndrome e = 0) : weight e ≠ 2 := by
  intro h2
  rw [weight_eq_length_setBits, List.length_eq_two] at h2
  obtain ⟨i, j, hij⟩ := h2
  have hmem : ∀ x ∈ [i, j], x < 24 := fun x hx => (mem_setBits.mp (hij ▸ hx)).1
  have hne : i ≠ j := by simpa [hij] using nodup_setBits e
  have hsum : e = BitVec.twoPow 24 i ^^^ BitVec.twoPow 24 j := by
    rw [← flips_setBits e, hij]
    exact congrArg (BitVec.twoPow 24 i ^^^ ·) BitVec.xor_zero
  rw [hsum, syndrome_xor] at h
  exact hne (syndrome_oneBit_injective i (hmem i (by simp)) j (hmem j (by simp)) (BitVec.xor_eq_zero_iff.mp h))

theorem eq_zero_of_weight {e : BitVec 24} (h : weight e = 0) : e = 0 := by
  rw [weight_eq_length_setBits, List.length_eq_zero_iff] at h
  rw [← flips_setBits e, h]
  rfl

/-- Settles O11: an undetected change turns over an even number of bits, not none and not two; the change of four bits is
that of spec/95_test_vectors.md section 2.3. -/
theorem smallChangesOfAGroupAreDetected : Obligations.SmallChangesOfAGroupAreDetected := by
  refine ⟨fun g e hg he hweight hvalid => ?detected, 0x01904C, 0x000131, ?undetected⟩
  case detected =>
    have hsyn := (validGroup_xor_iff hg).mp hvalid
    have heven := weight_even_of_syndrome hsyn
    have hzero : weight e ≠ 0 := fun h => he (eq_zero_of_weight h)
    have htwo := weight_ne_two_of_syndrome hsyn
    omega
  case undetected =>
    unfold validGroup
    decide +kernel

/-- Settles O13, by evaluation. -/
theorem checksumVectors : Obligations.ChecksumVectors := by
  unfold Obligations.ChecksumVectors
  decide +kernel

end Sys2Proof.Machine

/-! SUPPORT. CRC8, ENCODE and DECODE as calls (spec/40_checksum.md R70, spec/42_codec.md R100 to R106): the next state of
each way they end, and where a group's bytes stand in a frame. -/

namespace Sys2Proof.Machine

/-! ## Bytes of a frame -/

/-- The three bytes of group `g` (R51). -/
theorem groups_getElem? {ws : List Word} {g : Nat} {v : Word} (h : ws[g]? = some v) (k : Nat) (hk : k < 3) :
    (groups ws)[3 * g + k]? = (groupBytes v)[k]? := by
  induction ws generalizing g with
  | nil => simp at h
  | cons w ws ih =>
    cases g with
    | zero =>
      obtain rfl : w = v := by simpa using h
      rw [groups, Nat.mul_zero, Nat.zero_add, List.getElem?_append_left (by simpa using hk)]
    | succ g =>
      have hidx : 3 * (g + 1) + k - 3 = 3 * g + k := by omega
      rw [groups, List.getElem?_append_right (by simp; omega), groupBytes_length, hidx]
      exact ih (by simpa using h)

/-- A frame with the CRC byte of one group replaced. -/
theorem groups_set_crc {ws : List Word} {g : Nat} {v : Word} (h : ws[g]? = some v) (x : Byte) :
    (groups ws).set (3 * g + 2) x = groups (ws.take g) ++ hi8 v :: lo8 v :: x :: groups (ws.drop (g + 1)) := by
  induction ws generalizing g with
  | nil => simp at h
  | cons w ws ih =>
    cases g with
    | zero =>
      obtain rfl : w = v := by simpa using h
      rfl
    | succ g =>
      have hidx : 3 * (g + 1) + 2 = (3 * g + 2) + 3 := by omega
      rw [hidx, List.take_succ_cons, List.drop_succ_cons, groups, groups, List.append_assoc, ← ih (by simpa using h)]
      rfl

/-! ## How the calls end -/

section
variable {s : State} (hq : s.quiet 1)
include hq

theorem perform_encode_countMismatch {d : Descriptor} {ps : List Word} (hc : ps.length ≠ d.parameterCount) :
    perform (.encode d ps) s =
      .next (((s.pass 1).afterCountMismatch d ps).giveBack (.error (.block .parameterCountMismatch))) := by
  rw [perform, issue_quiet hq, opEncode_eq, if_neg hc, Ran.outcome_raised]

theorem perform_decode_mismatch {ws : List Word} {b0 b1 c : Byte} {rest : List Byte} {n : Nat}
    (hn : (groups ws ++ b0 :: b1 :: c :: rest).length = 3 * n) (hc : c ≠ checksum (assemble b0 b1)) :
    perform (.decode (groups ws ++ b0 :: b1 :: c :: rest) n) s =
      .next (((s.pass 1).afterMismatch (groups ws ++ b0 :: b1 :: c :: rest) n ws.length (assemble b0 b1) c).giveBack
        (.error (.block (.checksumMismatch c (checksum (assemble b0 b1)) ws.length)))) := by
  rw [perform, issue_quiet hq, opDecode_mismatch hn hc, Ran.outcome_raised]

end

theorem wf_eq_false_iff {i : Instr} :
    i.wf = false ↔ i.parameters.length ≠ i.command.descriptor.parameterCount := by
  rw [← Bool.not_eq_true, wf_iff]

theorem exec_countMismatch {i : Instr} {s : State} (hwf : i.wf = false) (h : s.Ready) (hq : s.quiet 3) :
    exec i s = .next (((s.pass 3).afterCountMismatch i.command.descriptor i.parameters).giveBack
      (.error (.block .parameterCountMismatch))) := by
  rw [exec_eq, execute, transact_countMismatch h hq (execute_lookup _) (wf_eq_false_iff.mp hwf), Ran.outcome_raised]

/-! ## The statements -/

/-- Settles O14: CRC8 has one way to end. -/
theorem crc8Completes : Obligations.Crc8Completes := by
  intro v s hq
  rw [perform, issue_quiet hq]
  rfl

/-- Settles O16: TXBUF is laid out from the frame, and a group's bytes follow the opcode in order. -/
theorem encodeBuildsTheFrame : Obligations.EncodeBuildsTheFrame := by
  intro d ps s hq hc
  have hread : ∀ a, (s.afterEncode d ps).txbuf.read a = (hi8 d.opcode :: lo8 d.opcode :: groups ps)[a]? :=
    fun a => Memory.read_ofBytes a _
  refine ⟨perform_encode hq hc, hread, fun g v hv => ?_⟩
  have hgroup : ∀ k < 3, (s.afterEncode d ps).txbuf.read (2 + k + 3 * g) = (groupBytes v)[k]? := fun k hk => by
    rw [hread, show 2 + k + 3 * g = 3 * g + k + 1 + 1 by omega, List.getElem?_cons_succ, List.getElem?_cons_succ,
      groups_getElem? hv k hk]
  exact ⟨hgroup 0 (by omega), hgroup 1 (by omega), hgroup 2 (by omega)⟩

/-- Settles O17: the count check of ENCODE comes first, as a call and inside a command alike. -/
theorem countMismatchProducesNothing : Obligations.CountMismatchProducesNothing := by
  refine ⟨fun d ps s hq hc => perform_encode_countMismatch hq hc, fun i s hwf h hq => ?command, fun x => rfl⟩
  case command =>
    exact ⟨_, exec_countMismatch hwf h hq, rfl, rfl, rfl, rfl, rfl, rfl, rfl⟩

/-- Settles O18: the length check of DECODE comes first. -/
theorem wrongLengthIsMalformed : Obligations.WrongLengthIsMalformed :=
  fun _ _ _ hq h => perform_decode_length hq h

/-- Settles O19: of a frame of the right length either every group verifies or there is a first that does not. -/
theorem decodeIsAllOrNothing : Obligations.DecodeIsAllOrNothing :=
  ⟨fun ws _ hq => perform_decode_groups hq ws,
    fun _ _ _ _ _ _ _ hq hn hc => ⟨perform_decode_mismatch hq hn hc, rfl⟩,
    fun bs n => groups_or_first_bad n bs⟩

/-- Settles O21: the groups before the changed byte still verify, so its group is the first that fails. -/
theorem corruptedChecksumByteIsCaught : Obligations.CorruptedChecksumByteIsCaught := by
  intro ws g v x s hq hv hx
  have hbytes := groups_set_crc hv x
  have hg : (ws.take g).length = g := by
    obtain ⟨hlt, _⟩ := List.getElem?_eq_some_iff.mp hv
    rw [List.length_take, min_eq_left hlt.le]
  have hlen : (groups (ws.take g) ++ hi8 v :: lo8 v :: x :: groups (ws.drop (g + 1))).length = 3 * ws.length := by
    rw [← hbytes, List.length_set, groups_length]
  have hrun := perform_decode_mismatch hq hlen (by rwa [assemble_hi8_lo8])
  rw [← hbytes, assemble_hi8_lo8, hg] at hrun
  exact ⟨_, hrun, rfl, rfl, rfl, rfl, rfl, rfl⟩

end Sys2Proof.Machine

/-! SUPPORT. The eight commands (spec/43_controller.md R121, R122): the next state of each way a command ends when no reset
falls into it, which ways there are, and the command behind either spelling of EXECUTE (R91). -/

namespace Sys2Proof.Machine

/-! ## How a command ends without a reset -/

section
variable {i : Instr} {s : State} {wa : List WriteAnswer} {ra : List ReadAnswer}
  (hwf : i.wf = true) (h : s.Ready)
include hwf h

theorem exec_noResponse (hq : s.quiet 5) (hw : s.writeAnswers = .ok :: wa)
    (hr : i.command.descriptor.responseCount = 0) :
    exec i s = .next (((s.pass 5).afterSettle i.command.descriptor i.parameters wa).giveBack (.words [])) := by
  rw [exec_eq, execute_noResponse h (wf_iff.mp hwf) hw hq hr, Ran.outcome_done]

theorem exec_words {ws : List Word} (hq : s.quiet 7) (hw : s.writeAnswers = .ok :: wa)
    (hr : i.command.descriptor.responseCount ≠ 0) (hws : ws.length = i.command.descriptor.responseCount)
    (ha : s.readAnswers = .bytes (groups ws) :: ra) :
    exec i s = .next ((((s.pass 7).afterRead i.command.descriptor i.parameters wa ra).afterDecode ws).giveBack
      (.words ws)) := by
  rw [exec_eq, execute_words h (wf_iff.mp hwf) hw hq hr hws ha, Ran.outcome_done]

theorem exec_response {bs : List Byte} (hq : s.quiet 7) (hw : s.writeAnswers = .ok :: wa)
    (hr : i.command.descriptor.responseCount ≠ 0) (ha : s.readAnswers = .bytes bs :: ra) :
    exec i s = (opDecode bs i.command.descriptor.responseCount
      ((s.pass 7).afterRead i.command.descriptor i.parameters wa ra)).outcome .words := by
  rw [exec_eq, execute, transact_response h hq (execute_lookup _) (wf_iff.mp hwf) hw hr ha]

end

/-- Settles O24: the three commands expect no response. -/
theorem commandsWithoutResponseComplete : Obligations.CommandsWithoutResponseComplete := by
  intro s wa h hq hw
  exact ⟨exec_noResponse rfl h hq hw rfl, fun _ _ => exec_noResponse rfl h hq hw rfl,
    fun _ => exec_noResponse rfl h hq hw rfl⟩

/-- Settles O25: the five commands expect as many words as the statement says. -/
theorem commandsWithResponseComplete : Obligations.CommandsWithResponseComplete := by
  intro s wa ra ws h hq hw ha
  refine ⟨fun hws => ?_, fun hws => ?_, fun hws => ?_, fun hws => ?_, fun hws => ?_⟩
  all_goals exact exec_words rfl h hq hw (by decide) hws ha

/-- Settles O26: what follows the write exchange is not reached. -/
theorem failedWriteEndsTheTransaction : Obligations.FailedWriteEndsTheTransaction := by
  intro i s e wa hwf h hq hw
  rw [exec_eq, execute, transact_writeFails h hq (execute_lookup _) (wf_iff.mp hwf) hw, Ran.outcome_raised]

/-- Settles O27: DECODE is not reached. -/
theorem failedReadEndsTheTransaction : Obligations.FailedReadEndsTheTransaction := by
  intro i s e wa ra hwf hr h hq hw ha
  rw [exec_eq, execute, transact_readFails h hq (execute_lookup _) (wf_iff.mp hwf) hw hr ha, Ran.outcome_raised]

/-- Settles O28: DECODE of the response is the last step of the command. -/
theorem badResponseIsReported : Obligations.BadResponseIsReported := by
  refine ⟨fun i s bs wa ra hwf hr h hq hw ha hlen => ?malformed,
    fun i s ws b0 b1 c rest wa ra hwf h hq hw ha hlen hc => ?mismatch⟩
  case malformed => rw [exec_response hwf h hq hw hr ha, opDecode_length hlen, Ran.outcome_raised]
  case mismatch =>
    have hr : i.command.descriptor.responseCount ≠ 0 := fun h0 => by simp [h0] at hlen
    rw [exec_response hwf h hq hw hr ha, opDecode_mismatch hlen hc, Ran.outcome_raised]

/-! ## Which ends there are -/

/-- A host that cannot start a transaction does nothing, over any form of LOOKUP. -/
theorem transact_of_not_ready {s : State} (h : ¬ s.Ready) (lookup : State → Ran Descriptor) (ps : List Word) :
    transact lookup ps s = .blocked s ∨ ∃ r, transact lookup ps s = .refused r := by
  by_cases hs : s.stalled = none
  · cases hr : s.busReleased
    · exact .inr ⟨_, transact_noTransport hs hr (by simpa [hs, hr] using h)⟩
    · exact .inr ⟨_, transact_released hs hr⟩
  · exact .inl (transact_stalled (Option.isSome_iff_ne_none.mpr hs))

theorem Reached.ready {n : Nat} {s u : State} (hu : Reached n s u) (h : s.Ready) : u.Ready := by
  rcases hu with rfl | ⟨_, rfl⟩ <;> exact h

/-- A transaction of a host that can start one: it returns to a host that can start the next, or hands no value back. -/
theorem execute_of_ready {s : State} (h : s.Ready) (c : Command) (ps : List Word) :
    (∃ ws t, execute c ps s = .done ws t ∧ t.Ready) ∨ (∃ e t, execute c ps s = .raised e t) ∨
      (∃ t, execute c ps s = .blocked t) ∨ ∃ t, execute c ps s = .abandoned t := by
  rcases transact_cases (s := s) (ps := ps) (execute_lookup c) with ⟨hs, _⟩ | ⟨_, hr, _⟩ | ⟨_, _, hb, _⟩ |
    ⟨_, ⟨_, _, _, e⟩ | ⟨_, _, u, hu, ⟨_, e⟩ | ⟨_, ⟨_, v, _, e⟩ | ⟨e', _, v, _, _, e⟩ |
      ⟨_, _, ⟨_, v, hv, e⟩ | ⟨_, _, v, _, e⟩ | ⟨e', _, v, _, _, _, e⟩ | ⟨bs, ra, v, _, _, hv, e⟩⟩⟩⟩⟩
  · simp [h.1] at hs
  · simp [h.2.2] at hr
  · simp [h.2.1] at hb
  · exact .inr (.inr (.inr ⟨_, e⟩))
  · exact .inr (.inl ⟨_, _, e⟩)
  · exact .inr (.inr (.inl ⟨_, e⟩))
  · exact .inr (.inl ⟨_, _, e⟩)
  · have hreadyU : u.Ready := hu.ready h
    exact .inl ⟨_, _, e, hv.ready hreadyU⟩
  · exact .inr (.inr (.inl ⟨_, e⟩))
  · exact .inr (.inl ⟨_, _, e⟩)
  · rcases issue_cases (opDecode bs c.descriptor.responseCount) v with ⟨_, e2⟩ | ⟨_, e2⟩
    · rcases opDecode_cases bs c.descriptor.responseCount (v.pass 1) with
        ⟨_, e3⟩ | ⟨_, _, _, e3⟩ | ⟨_, _, _, _, _, _, _, _, e3⟩
      · exact .inr (.inl ⟨_, _, (e.trans e2).trans e3⟩)
      · have hreadyU : u.Ready := hu.ready h
        have hreadyV : v.Ready := hv.ready hreadyU
        exact .inl ⟨_, _, (e.trans e2).trans e3, hreadyV⟩
      · exact .inr (.inl ⟨_, _, (e.trans e2).trans e3⟩)
    · exact .inr (.inr (.inr ⟨_, e.trans e2⟩))

/-- Settles O31: each end of a transaction that started is a next state. -/
theorem commandsNeverStopWithTheBusHandle : Obligations.CommandsNeverStopWithTheBusHandle := by
  intro i s h
  rw [exec_eq]
  rcases execute_of_ready h i.command i.parameters with ⟨_, _, e, _⟩ | ⟨_, _, e⟩ | ⟨_, e⟩ | ⟨_, e⟩
  all_goals exact ⟨_, by rw [e]; rfl⟩

/-- Settles O30: the handle is checked before anything else. -/
theorem commandsNeedTheBusHandle : Obligations.CommandsNeedTheBusHandle := by
  intro i s hs
  refine ⟨fun hr => ?released, fun hr hb => ?noTransport⟩
  case released => rw [exec_eq, execute, transact_released hs hr, Ran.outcome_refused]
  case noTransport => rw [exec_eq, execute, transact_noTransport hs hr hb, Ran.outcome_refused]

/-! ## EXECUTE by name and by selector -/

theorem opLookupName_command (c : Command) : opLookupName c.descriptor.name = opLookupSelector c.selector := by
  funext s
  rw [opLookupName, opLookupSelector, registryByName_command, registryBySelector_command]

theorem opLookupName_unknown {name : String} (h : ∀ c : Command, name ≠ c.descriptor.name) (s : State) :
    opLookupName name s = .raised (.block .unknownCommand) (s.record .unknownCommand) := by
  rw [opLookupName, registryByName_eq_none_iff.mpr h]
  rfl

theorem opLookupSelector_unknown {n : Nat} (h : 7 < n) (s : State) :
    opLookupSelector n s = .raised (.block .unknownCommand) (s.record .unknownCommand) := by
  rw [opLookupSelector, registryBySelector_eq_none h]
  rfl

theorem perform_executeSelector_command (c : Command) (ps : List Word) (s : State) :
    perform (.executeSelector c.selector ps) s = (execute c ps s).outcome .words := rfl

theorem perform_executeName_command (c : Command) (ps : List Word) (s : State) :
    perform (.executeName c.descriptor.name ps) s = (execute c ps s).outcome .words := by
  rw [perform, opLookupName_command, execute]

/-- Settles O37: the three spellings share LOOKUP's answer; an unknown one ends there. -/
theorem executeByNameIsTheInstruction : Obligations.ExecuteByNameIsTheInstruction := by
  refine ⟨fun c ps s => ?known, fun name ps s h hq hname => ?unknownName, fun n ps s h hq hn => ?unknownSelector⟩
  case known =>
    rw [perform_executeName_command, perform_executeSelector_command, exec_eq, command_instr, parameters_instr]
    exact ⟨rfl, rfl⟩
  case unknownName =>
    rw [perform, transact_unknown h hq (opLookupName_unknown hname)]
    rfl
  case unknownSelector =>
    rw [perform, transact_unknown h hq (opLookupSelector_unknown hn)]
    rfl

end Sys2Proof.Machine

/-! SUPPORT. What a command leaves of the host, does outside, and leaves in TXBUF and RXBUF (spec/10_state.md R17, R19, R24,
spec/20_memory.md section 4), whenever resets fall into it: `CommandFrame`, shown once for every end of a transaction. -/

namespace Sys2Proof.Machine

/-! ## Parts of the state -/

/-- What no command changes of the host. -/
def State.hostView (s : State) : Bool × Bool × Nat × Nat × Bool × RoundTies × List Request :=
  (s.busHeld, s.busReleased, s.addr, s.polls, s.serialIdLegacy, s.roundTies, s.requests)

theorem State.hostView_eq_iff {s t : State} : t.hostView = s.hostView ↔ t.busHeld = s.busHeld ∧
    t.busReleased = s.busReleased ∧ t.addr = s.addr ∧ t.polls = s.polls ∧ t.serialIdLegacy = s.serialIdLegacy ∧
    t.roundTies = s.roundTies ∧ t.requests = s.requests := by
  simp only [State.hostView, Prod.mk.injEq]

/-- What ENCODE writes beside the accumulator and its result (R16, R17). -/
def State.txView (s : State) : Memory × Nat × List Word × Descriptor := (s.txbuf, s.txlen, s.p, s.desc)

/-- What DECODE writes beside the accumulator and its result (R13, R16, R17). -/
def State.rxView (s : State) : Memory × Nat × Nat × List Word := (s.rxbuf, s.rxlen, s.rc, s.w)

section
variable {n : Nat} {s u : State}

theorem Reached.hostView (h : Reached n s u) : u.hostView = s.hostView := by
  rcases h with rfl | ⟨_, rfl⟩ <;> rfl

theorem Reached.txView (h : Reached n s u) : u.txView = s.txView ∨ (¬ s.quiet n ∧ u.txView = State.reset.txView) := by
  rcases h with rfl | ⟨hq, rfl⟩
  · exact .inl rfl
  · exact .inr ⟨hq, rfl⟩

theorem Reached.rxView (h : Reached n s u) : u.rxView = s.rxView ∨ (¬ s.quiet n ∧ u.rxView = State.reset.rxView) := by
  rcases h with rfl | ⟨hq, rfl⟩
  · exact .inl rfl
  · exact .inr ⟨hq, rfl⟩

theorem Reached.events (h : Reached n s u) : u.events = s.events := by
  rcases h with rfl | ⟨_, rfl⟩ <;> rfl

theorem Reached.addr (h : Reached n s u) : u.addr = s.addr := by
  rcases h with rfl | ⟨_, rfl⟩ <;> rfl

theorem Reached.readAnswers (h : Reached n s u) : u.readAnswers = s.readAnswers := by
  rcases h with rfl | ⟨_, rfl⟩ <;> rfl

/-- A reset at one of `n` points after the first `m` is one at the first `k`. -/
theorem not_quiet_of_drop {m k : Nat} (hu : u.resetLine = s.resetLine.drop m) (h : ¬ u.quiet n) (hk : m + n ≤ k) :
    ¬ s.quiet k := by
  intro hq
  apply h
  rw [State.quiet, hu]
  exact (State.quiet_add.mp (State.quiet_mono hq hk)).2

end

/-! ## The frame of a transaction -/

/-- The acts of a transaction that goes through all its exchanges (R121). -/
def transactionActs (addr : Nat) (c : Command) (ps : List Word) : List Event :=
  [.busWrite addr (commandFrame c.descriptor.opcode ps), .sleep 25, .busRead addr (3 * c.descriptor.responseCount)]

/-- What ENCODE of a command leaves: its frame, or nothing if the count is wrong (R100, R101). -/
def encodedView (c : Command) (ps : List Word) : Memory × Nat × List Word × Descriptor :=
  if ps.length = c.descriptor.parameterCount then
    (Memory.ofBytes (commandFrame c.descriptor.opcode ps), 2 + 3 * ps.length, ps, c.descriptor)
  else ([], 0, ps, c.descriptor)

/-- RXBUF holds what a command that expects a response has read of the transport. -/
structure ResponseHeld (c : Command) (s t : State) : Prop where
  expected : c.descriptor.responseCount ≠ 0
  rc : t.rc = c.descriptor.responseCount
  bytes : ∃ bs ra, s.readAnswers = .bytes bs :: ra ∧ t.readAnswers = ra ∧ t.rxbuf = Memory.ofBytes bs ∧
    t.rxlen = bs.length

/-- What a command of a host that is not stuck leaves of `s` in `t`. -/
structure CommandFrame (c : Command) (ps : List Word) (s t : State) : Prop where
  host : t.hostView = s.hostView
  resetLine : ∃ n ≤ 7, t.resetLine = s.resetLine.drop n
  acts : ∃ k, t.events = s.events ++ (transactionActs s.addr c ps).take k ∧
    (k ≠ 0 → ps.length = c.descriptor.parameterCount) ∧ (c.descriptor.responseCount = 0 → k ≤ 2)
  tx : t.txView = encodedView c ps ∨ (¬ s.quiet 7 ∧ t.txView = State.reset.txView)
  rx : t.rxView = s.rxView ∨ (¬ s.quiet 7 ∧ t.rxView = State.reset.rxView) ∨ ResponseHeld c s t

/-- The state after ENCODE and the first `k` acts, with the answers of the transport that are left. -/
def State.afterActs (u : State) (c : Command) (ps : List Word) (k : Nat) (wa : List WriteAnswer) (ra : List ReadAnswer) :
    State :=
  { u.afterEncode c.descriptor ps with
    writeAnswers := wa
    readAnswers := ra
    events := u.events ++ (transactionActs u.addr c ps).take k }

section
variable {c : Command} {ps : List Word} {s t : State}

theorem CommandFrame.of_abandonedEarly {m : Nat} (hf : (s.pass m).resetFalls = true) (hm : m < 7) :
    CommandFrame c ps s (resetBlock (s.pass (m + 1))) where
  host := rfl
  resetLine := ⟨m + 1, by omega, rfl⟩
  acts := ⟨0, by simp, by simp, by simp⟩
  tx := .inr ⟨State.not_quiet hf hm, rfl⟩
  rx := .inr (.inl ⟨State.not_quiet hf hm, rfl⟩)

theorem Reached.rxView_seven {n : Nat} {u x v : State} (hu : Reached 3 s u) (hx : x.resetLine = u.resetLine)
    (hrx : x.rxView = u.rxView) (hv : Reached n x v) (hn : n ≤ 4) :
    v.rxView = s.rxView ∨ (¬ s.quiet 7 ∧ v.rxView = State.reset.rxView) := by
  rcases hv.rxView with hvx | ⟨hq, hvx⟩
  · rw [hvx, hrx]
    exact hu.rxView.imp_right (And.imp_left fun hq h7 => hq (State.quiet_mono h7 (by omega)))
  · exact .inr ⟨not_quiet_of_drop (hx.trans hu.resetLine) hq (by omega), hvx⟩

theorem CommandFrame.of_countMismatch {u : State} (hu : Reached 3 s u) (hc : ps.length ≠ c.descriptor.parameterCount) :
    CommandFrame c ps s (u.afterCountMismatch c.descriptor ps) where
  host := hu.hostView
  resetLine := ⟨3, by omega, hu.resetLine⟩
  acts := ⟨0, by simp [State.afterCountMismatch, hu.events], by simp, by simp⟩
  tx := .inl (if_neg hc).symm
  rx := (hu.rxView_seven (x := u.afterCountMismatch c.descriptor ps) (n := 0) rfl rfl .pass (by omega)).imp_right .inl

/-- After ENCODE and `k` acts, `n` points later. -/
theorem CommandFrame.of_acts {n k : Nat} {u v : State} {wa : List WriteAnswer} {ra : List ReadAnswer}
    (hu : Reached 3 s u) (hc : ps.length = c.descriptor.parameterCount) (hk : c.descriptor.responseCount = 0 → k ≤ 2)
    (hv : Reached n (u.afterActs c ps k wa ra) v) (hn : n ≤ 4) : CommandFrame c ps s v where
  host := Eq.trans hv.hostView hu.hostView
  resetLine := ⟨3 + n, by omega, by rw [hv.resetLine, ← List.drop_drop, ← hu.resetLine]; rfl⟩
  acts := ⟨k, by rw [hv.events, State.afterActs, hu.events, hu.addr], fun _ => hc, hk⟩
  tx := by
    have henc : (u.afterActs c ps k wa ra).txView = encodedView c ps := (if_pos hc).symm
    rcases hv.txView with hvx | ⟨hq, hvx⟩
    · exact .inl (hvx.trans henc)
    · exact .inr ⟨not_quiet_of_drop (m := 3) hu.resetLine hq (by omega), hvx⟩
  rx := (hu.rxView_seven (x := u.afterActs c ps k wa ra) rfl rfl hv hn).imp_right .inl

theorem CommandFrame.stall (h : CommandFrame c ps s t) (x : Exchange) : CommandFrame c ps s (t.stall x) :=
  { h with rx := h.rx.imp_right (.imp_right fun h => { h with }) }

theorem CommandFrame.giveBack (h : CommandFrame c ps s t) (r : Returned) : CommandFrame c ps s (t.giveBack r) :=
  { h with rx := h.rx.imp_right (.imp_right fun h => { h with }) }

theorem CommandEnds.frame (h : CommandEnds c ps s t) : s.stalled ≠ none ∧ t = s ∨ CommandFrame c ps s t := by
  refine or_iff_not_imp_left.mpr fun hns => ?_
  open CommandFrame in
  cases h with
  | unchanged hs => exact absurd ⟨hs, rfl⟩ hns
  | abandonedEarly _ hm hf => exact of_abandonedEarly hf (by omega)
  | countMismatch _ hu hc => exact of_countMismatch hu hc
  | writeStalls _ hu hc _ hv => exact (of_acts (k := 1) hu hc (by omega) hv (by omega)).stall _
  | writeFails _ hu hc _ hv => exact of_acts (k := 1) hu hc (by omega) hv (by omega)
  | noResponse _ hu hc _ _ hv => exact of_acts (k := 2) hu hc (by omega) hv (by omega)
  | readStalls _ hu hc _ hr _ hv => exact (of_acts (k := 3) hu hc (by omega) hv (by omega)).stall _
  | readFails _ hu hc _ hr _ hv => exact of_acts (k := 3) hu hc (by omega) hv (by omega)
  | abandonedLate _ hu hc _ hr _ hv hq =>
    exact of_acts (k := 3) hu hc (by omega) (hv.trans (.inr ⟨hq, rfl⟩)) (by omega)
  | malformed _ hu hc _ hr ha hv _ =>
    exact { of_acts (k := 3) hu hc (by omega) (hv.trans .pass) (by omega) with
      rx := .inr (.inr ⟨hr, rfl, _, _, ha, hv.readAnswers, rfl, rfl⟩) }
  | words _ hu hc _ hr ha hv hl =>
    exact { of_acts (k := 3) hu hc (by omega) (hv.trans .pass) (by omega) with
      rx := .inr (.inr ⟨hr, hl, _, _, ha, hv.readAnswers, rfl, (groups_length _).symm⟩) }
  | mismatch _ hu hc _ hr ha hv _ _ _ =>
    exact { of_acts (k := 3) hu hc (by omega) (hv.trans .pass) (by omega) with
      rx := .inr (.inr ⟨hr, rfl, _, _, ha, hv.readAnswers, rfl, rfl⟩) }

end

theorem exec_frame {i : Instr} {s t : State} (h : exec i s = .next t) (hs : s.stalled = none) :
    CommandFrame i.command i.parameters s t := by
  obtain ⟨u, hends, ht⟩ := exec_ends h
  have hu := hends.frame.resolve_left fun hne => hne.1 hs
  rcases ht with rfl | ⟨r, rfl⟩
  · exact hu
  · exact hu.giveBack r

/-! ## The statements -/

/-- Settles O32: the acts are cut off where the transaction ends. -/
theorem atMostOneWriteAndOneRead : Obligations.AtMostOneWriteAndOneRead := by
  intro i s t h
  by_cases hs : s.stalled = none
  · obtain ⟨k, hev, hwf, hk⟩ := (exec_frame h hs).acts
    refine ⟨_, hev, List.take_prefix k _, fun hne => wf_iff.mpr (hwf ?_), fun h0 => ?_⟩
    · rintro rfl
      exact hne rfl
    · exact (List.length_take_le _ _).trans (hk h0)
  · rw [exec_stalled h hs]
    exact ⟨[], by simp, List.nil_prefix, fun hne => absurd rfl hne, fun _ => by simp⟩

/-- Settles O33: every end of the transaction leaves the host's registers, and the last point is that of DECODE. -/
theorem commandFrameOfTheHost : Obligations.CommandFrameOfTheHost := by
  intro i s t h
  have hview : t.hostView = s.hostView ∧ ∃ n ≤ 7, t.resetLine = s.resetLine.drop n := by
    by_cases hs : s.stalled = none
    · exact ⟨(exec_frame h hs).host, (exec_frame h hs).resetLine⟩
    · rw [exec_stalled h hs]
      exact ⟨rfl, 0, by omega, rfl⟩
  obtain ⟨hhost, hline⟩ := hview
  obtain ⟨hheld, hrel, haddr, hpolls, hlegacy, hties, hreq⟩ := State.hostView_eq_iff.mp hhost
  exact ⟨hheld, hrel, haddr, hpolls, hlegacy, hties, hreq, hline, exec_stalled h⟩

/-- TXBUF has no value (R101). -/
def State.TxEmpty (t : State) : Prop := t.txlen = 0 ∧ ∀ a, t.txbuf.read a = none

/-- TXBUF reads as the bytes and has no value beyond them. -/
def State.TxHolds (t : State) (bs : List Byte) : Prop := t.txlen = bs.length ∧ ∀ a, t.txbuf.read a = bs[a]?

theorem txEmpty_of_reset {t : State} (h : t.txView = State.reset.txView) : t.TxEmpty := by
  simp only [State.txView, Prod.mk.injEq] at h
  obtain ⟨hbuf, hlen, -⟩ := h
  exact ⟨hlen, fun a => by rw [hbuf]; rfl⟩

theorem txHolds_of_encodedView {i : Instr} {t : State} (h : t.txView = encodedView i.command i.parameters) :
    (i.wf = true → t.TxHolds (encode i)) ∧ (i.wf = false → t.TxEmpty) ∧
      t.p = i.parameters ∧ t.desc = i.command.descriptor := by
  cases hwf : i.wf
  · rw [encodedView, if_neg (wf_eq_false_iff.mp hwf)] at h
    simp only [State.txView, Prod.mk.injEq] at h
    obtain ⟨hbuf, hlen, hp, hd⟩ := h
    exact ⟨by simp, fun _ => ⟨hlen, fun a => by rw [hbuf]; rfl⟩, hp, hd⟩
  · rw [encodedView, if_pos (wf_iff.mp hwf)] at h
    simp only [State.txView, Prod.mk.injEq] at h
    obtain ⟨hbuf, hlen, hp, hd⟩ := h
    have hholds : t.TxHolds (encode i) :=
      ⟨hlen.trans (commandFrame_length _ _).symm, fun a => by rw [hbuf, Memory.read_ofBytes]; rfl⟩
    exact ⟨fun _ => hholds, by simp, hp, hd⟩

/-- Settles O34: ENCODE leaves the frame, or nothing for a wrong count, and only a reset changes that later. -/
theorem commandFrameOfTxbuf : Obligations.CommandFrameOfTxbuf := by
  intro i s t hs h
  have htx := (exec_frame h hs).tx
  refine ⟨fun hq => txHolds_of_encodedView (htx.resolve_right fun hr => hr.1 hq), ?whenever⟩
  case whenever =>
    rcases htx with henc | ⟨_, hreset⟩
    · obtain ⟨hok, hwrong, -⟩ := txHolds_of_encodedView henc
      cases hwf : i.wf
      · exact .inr (hwrong hwf)
      · exact .inl ⟨rfl, hok hwf⟩
    · exact .inr (txEmpty_of_reset hreset)

/-- Settles O35: DECODE overwrites RXBUF with what was read, and only a reset changes it otherwise. -/
theorem commandFrameOfRxbuf : Obligations.CommandFrameOfRxbuf := by
  intro i s t h
  by_cases hs : s.stalled = none
  swap
  · rw [exec_stalled h hs]
    exact .inl ⟨rfl, rfl, rfl, fun _ => rfl⟩
  have hrx := (exec_frame h hs).rx
  simp only [State.rxView, Prod.mk.injEq] at hrx
  obtain ⟨hbuf, hlen, hrc, hw⟩ | ⟨hq, hbuf, hlen, hrc, hw⟩ | ⟨hr, hrc, bs, ra, ha, hra, hbuf, hlen⟩ := hrx
  · exact .inl ⟨hlen, hrc, hw, fun a => by rw [hbuf]⟩
  · exact .inr (.inr ⟨hq, hlen, by rw [State.nw, hw]; rfl, fun a => by rw [hbuf]; rfl⟩)
  · exact .inr (.inl ⟨hr, hrc, bs, ra, ha, hra, hlen, fun a => by rw [hbuf, Memory.read_ofBytes]⟩)

end Sys2Proof.Machine

/-! SUPPORT. The derived operations (spec/43_controller.md R123 to R130). Each but start_measurement is its command, with
something else made of the words the command hands back. -/

namespace Sys2Proof.Machine

/-! ## A call whose value is turned into another -/

section
variable {α β : Type} {x : Ran α}

theorem Ran.bind_outcome_of_not_done (h : ∀ v t, x ≠ .done v t) (k : α → State → Ran β) (give : β → Returned)
    (give' : α → Returned) : (x.bind k).outcome give = x.outcome give' := by
  cases x with
  | done v t => exact absurd rfl (h v t)
  | raised e t | blocked t | abandoned t | fault f | refused r => rfl

theorem Ran.outcome_of_not_done (h : ∀ v t, x ≠ .done v t) (give give' : α → Returned) :
    x.outcome give = x.outcome give' := by
  cases x with
  | done v t => exact absurd rfl (h v t)
  | raised e t | blocked t | abandoned t | fault f | refused r => rfl

theorem Ran.bind_congr {k l : α → State → Ran β} (h : ∀ v t, x = .done v t → k v t = l v t) : x.bind k = x.bind l := by
  cases x with
  | done v t => exact h v t rfl
  | raised e t | blocked t | abandoned t | fault f | refused r => rfl

/-- What follows a command makes a value of the one handed back, and leaves the state. -/
theorem Ran.bind_outcome {k : α → State → Ran β} {give : β → Returned} {give' : α → Returned}
    (h : ∀ v t, x = .done v t → (k v t).outcome give = .next (t.giveBack (give' v))) :
    (x.bind k).outcome give = x.outcome give' := by
  cases x with
  | done v t => exact h v t rfl
  | raised e t | blocked t | abandoned t | fault f | refused r => rfl

end

/-! ## The operations over one command -/

/-- What a derived operation hands back for the words of its command (R123 to R130). -/
def derivedResult (legacy : Bool) : Operation → List Word → Returned
  | .getSerialId, [w0, w1, w2] => .serialId (serialId legacy w0 w1 w2)
  | .getFeatureSetVersion, [v] => .featureSet (productType v) (featureVersion v)
  | .getAirQuality, [w0, w1] => .reading w0 w1
  | .getBaseline, [w0, w1] => .baseline w0 w1
  | _, _ => .unit

theorem execute_hostView {c : Command} {ps ws : List Word} {s t : State} (h : execute c ps s = .done ws t) :
    t.hostView = s.hostView := by
  have hends := execute_ends c ps s
  rw [h] at hends
  rcases CommandEnds.frame hends with ⟨_, rfl⟩ | hframe
  · rfl
  · exact hframe.host

theorem execute_serialIdLegacy {c : Command} {ps ws : List Word} {s t : State} (h : execute c ps s = .done ws t) :
    t.serialIdLegacy = s.serialIdLegacy := by
  obtain ⟨-, -, -, -, hlegacy, -, -⟩ := State.hostView_eq_iff.mp (execute_hostView h)
  exact hlegacy

theorem readW_of_w {t : State} {ws : List Word} {i : Nat} {v : Word} (hw : t.w = ws) (hv : ws[i]? = some v) :
    t.readW i = .ok v := by
  simp only [State.readW, hw, hv]

/-- The pair that a response of two words holds. -/
def pairOf (ws : List Word) : Word × Word := (ws.getD 0 0, ws.getD 1 0)

/-- A poll is its command, with a pair made of the words it hands back. -/
theorem getAirQuality_eq_bind (s : State) :
    getAirQuality s = (execute .measureAirQuality [] s).bind fun ws t => .done (pairOf ws) t := by
  refine Ran.bind_congr fun ws t h => ?_
  obtain ⟨hlen, hw⟩ := execute_done h
  obtain ⟨w0, w1, rfl⟩ := List.length_eq_two.mp hlen
  have hw := hw (by decide)
  rw [readW_of_w hw rfl, readW_of_w hw rfl]
  rfl

/-- A derived operation but start_measurement is its command with another result. -/
theorem perform_derived {o : Operation} {i : Instr} {s : State} (hi : firstCommand s.roundTies o = some i)
    (ho : ∀ callback, o ≠ .startMeasurement callback) :
    perform o s = (execute i.command i.parameters s).outcome (derivedResult s.serialIdLegacy o) := by
  cases o with
  | startMeasurement callback => exact absurd rfl (ho callback)
  | getSerialId =>
    obtain rfl := Option.some.inj hi
    refine Ran.bind_outcome fun ws t h => ?_
    obtain ⟨hlen, hw⟩ := execute_done h
    obtain ⟨w0, w1, w2, rfl⟩ := List.length_eq_three.mp hlen
    have hw := hw (by decide)
    rw [readW_of_w hw rfl, readW_of_w hw rfl, readW_of_w hw rfl, execute_serialIdLegacy h]
    rfl
  | getFeatureSetVersion =>
    obtain rfl := Option.some.inj hi
    refine Ran.bind_outcome fun ws t h => ?_
    obtain ⟨hlen, hw⟩ := execute_done h
    obtain ⟨v, rfl⟩ := List.length_eq_one_iff.mp hlen
    rw [readW_of_w (hw (by decide)) rfl]
    rfl
  | getAirQuality | getBaseline =>
    obtain rfl := Option.some.inj hi
    refine Ran.bind_outcome fun ws t h => ?_
    obtain ⟨hlen, hw⟩ := execute_done h
    obtain ⟨w0, w1, rfl⟩ := List.length_eq_two.mp hlen
    have hw := hw (by decide)
    rw [readW_of_w hw rfl, readW_of_w hw rfl]
    rfl
  | setBaseline eco2 tvoc =>
    obtain rfl := Option.some.inj hi
    exact Ran.bind_outcome fun _ _ _ => rfl
  | setHumidity h =>
    obtain ⟨v, hv, rfl⟩ := Option.map_eq_some_iff.mp hi
    rw [perform, setHumidity, hv]
    exact Ran.bind_outcome fun _ _ _ => rfl
  | _ => cases hi

/-- Where the first command of a derived operation hands no value back, the operation is that command. -/
theorem perform_eq_exec {o : Operation} {i : Instr} {s : State} (hi : firstCommand s.roundTies o = some i)
    (h : ∀ ws t, execute i.command i.parameters s ≠ .done ws t) : perform o s = exec i s := by
  rw [exec_eq]
  by_cases ho : ∀ callback, o ≠ .startMeasurement callback
  · rw [perform_derived hi ho]
    exact Ran.outcome_of_not_done h _ _
  · obtain ⟨callback, rfl⟩ := not_forall_not.mp ho
    obtain rfl := Option.some.inj hi
    exact Ran.bind_outcome_of_not_done h _ _ _

/-- Settles O45: both are their command, whose two words are made a pair in their order. -/
theorem pairsAreInWireOrder : Obligations.PairsAreInWireOrder := by
  intro s wa ra w0 w1 h hq hw ha
  have hrun : ∀ c : Command, c.descriptor.parameterCount = 0 → c.descriptor.responseCount = 2 →
      execute c [] s = .done [w0, w1] (((s.pass 7).afterRead c.descriptor [] wa ra).afterDecode [w0, w1]) :=
    fun c hc hr => execute_words h hc.symm hw hq (by omega) hr.symm ha
  constructor
  · rw [perform_derived rfl (by simp)]
    exact congrArg (Ran.outcome _) (hrun .measureAirQuality rfl rfl)
  · rw [perform_derived rfl (by simp)]
    exact congrArg (Ran.outcome _) (hrun .getBaseline rfl rfl)

/-! ## set_humidity -/

/-- Which of the two integers around a fraction it is rounded to, by the remainder of the division (R130, D13). -/
theorem roundToNearest_cases (ties : RoundTies) (num : Int) (den : Nat) :
    (2 * (num % den) < den ∧ roundToNearest ties num den = num / den) ∨
    ((den : Int) < 2 * (num % den) ∧ roundToNearest ties num den = num / den + 1) ∨
    (2 * (num % den) = den ∧
      (roundToNearest ties num den = num / den ∧ (ties = .halfAwayFromZero → num < 0) ∨
        roundToNearest ties num den = num / den + 1 ∧ (ties = .halfAwayFromZero → 0 ≤ num)) ∧
      (ties = .halfToEven → roundToNearest ties num den % 2 = 0)) := by
  unfold roundToNearest
  rcases lt_trichotomy (2 * (num % den)) den with hr | hr | hr
  · exact .inl ⟨hr, if_pos hr⟩
  · refine .inr (.inr ⟨hr, ?_⟩)
    simp only [hr, lt_irrefl, if_false]
    cases ties
    · by_cases hq : num / den % 2 = 0
      · simp [hq]
      · simp only [if_neg hq, reduceCtorEq, false_implies, and_true, or_true, true_and]
        omega
    · by_cases hn : 0 ≤ num
      · simp [hn]
      · simpa [hn] using lt_of_not_ge hn
  · refine .inr (.inl ⟨hr, ?_⟩)
    simp only [if_neg (not_lt.mpr hr.le), if_pos hr]

/-- Rounding is within half a denominator, and on a tie as the rule says. -/
theorem roundToNearest_nearest (ties : RoundTies) (num : Int) {den : Nat} (hden : den ≠ 0) :
    |2 * (roundToNearest ties num den * den - num)| ≤ den ∧
    (|2 * (roundToNearest ties num den * den - num)| = den →
      (ties = .halfToEven → roundToNearest ties num den % 2 = 0) ∧
      (ties = .halfAwayFromZero → |num| ≤ |roundToNearest ties num den * den|)) := by
  have hdiv : num / den * den + num % den = num := Int.ediv_mul_add_emod num den
  have hsucc : (num / den + 1) * (den : Int) = num / den * den + den := by ring
  have hr0 : 0 ≤ num % den := Int.emod_nonneg _ (by omega)
  have hrlt : num % den < den := Int.emod_lt_of_pos _ (by omega)
  rcases roundToNearest_cases ties num den with ⟨hr, e⟩ | ⟨hr, e⟩ | ⟨hr, ⟨e, hneg⟩ | ⟨e, hpos⟩, heven⟩
  · have habs : |2 * (num / den * den - num)| < den := abs_lt.mpr ⟨by omega, by omega⟩
    rw [e]
    exact ⟨habs.le, fun h => absurd h habs.ne⟩
  · have habs : |2 * ((num / den + 1) * den - num)| < den := abs_lt.mpr ⟨by omega, by omega⟩
    rw [e]
    exact ⟨habs.le, fun h => absurd h habs.ne⟩
  · refine ⟨by rw [e]; exact abs_le.mpr ⟨by omega, by omega⟩, fun _ => ⟨heven, fun h => ?_⟩⟩
    have hn := hneg h
    rw [e, abs_of_neg hn, abs_of_neg (by omega)]
    omega
  · refine ⟨by rw [e, hsucc]; exact abs_le.mpr ⟨by omega, by omega⟩, fun _ => ⟨heven, fun h => ?_⟩⟩
    have hn := hpos h
    rw [e, hsucc, abs_of_nonneg hn, abs_of_nonneg (by omega)]
    omega

theorem toWord?_of_round {ties : RoundTies} {num : Int} {den h : Nat} (hden : den ≠ 0)
    (hround : roundToNearest ties num den = h) (hh : h ≤ 65535) :
    (Humidity.finite num den).toWord? ties = some (BitVec.ofNat 16 h) := by
  have hrange : (0 : Int) ≤ h ∧ (h : Int) ≤ 65535 := by omega
  simp only [Humidity.toWord?, if_neg hden, hround, if_pos hrange]
  rfl

theorem toWord?_eq_none {ties : RoundTies} {x : Humidity}
    (h : x = .nan ∨ x = .posInfinity ∨ x = .negInfinity ∨ ∃ num den, x = .finite num den ∧
      (den = 0 ∨ roundToNearest ties num den < 0 ∨ 65535 < roundToNearest ties num den)) : x.toWord? ties = none := by
  obtain rfl | rfl | rfl | ⟨num, den, rfl, hout⟩ := h
  · rfl
  · rfl
  · rfl
  · by_cases hden : den = 0
    · exact if_pos hden
    · have hrange : ¬ (0 ≤ roundToNearest ties num den ∧ roundToNearest ties num den ≤ 65535) := by omega
      simp only [Humidity.toWord?, if_neg hden, if_neg hrange]

/-- Settles O47: rounding is by quotient and remainder, and the operation is set_humidity of the word, if there is one. -/
theorem humidityIsRoundedToTheNearestWord : Obligations.HumidityIsRoundedToTheNearestWord := by
  refine ⟨fun ties num den hden => roundToNearest_nearest ties num hden,
    fun s wa num den n h hq hw hden hround hn => ?word, fun s x hx => ?noWord⟩
  case word =>
    have hfirst : firstCommand s.roundTies (.setHumidity (.finite num den)) =
        some (.setHumidity [BitVec.ofNat 16 n]) := by
      rw [firstCommand, toWord?_of_round hden hround hn]
      rfl
    have hrun := execute_noResponse (c := .setHumidity) (ps := [BitVec.ofNat 16 n]) h rfl hw hq rfl
    rw [perform_derived hfirst (by simp)]
    exact congrArg (Ran.outcome _) hrun
  case noWord =>
    rw [perform, setHumidity, toWord?_eq_none hx]
    rfl

end Sys2Proof.Machine

/-! SUPPORT. start_measurement (spec/43_controller.md R126) and what ends a derived operation early (R122): the state
before the poll that follows `k` discarded ones, and each way that poll ends. -/

namespace Sys2Proof.Machine

/-! ## Commands that hand no value back -/

theorem execute_done_ready {c : Command} {ps ws : List Word} {s t : State} (h : execute c ps s = .done ws t) :
    t.Ready := by
  by_cases hs : s.Ready
  · rcases execute_of_ready hs c ps with ⟨_, _, e, ht⟩ | ⟨_, _, e⟩ | ⟨_, e⟩ | ⟨_, e⟩
    all_goals cases h.symm.trans e
    exact ht
  · rcases transact_of_not_ready hs (opLookupSelector c.selector) ps with e | ⟨_, e⟩
    all_goals cases h.symm.trans e

theorem not_done_of_noValue {i : Instr} {s t : State} (h : exec i s = .next t) (ht : t.NoValue) (ws : List Word)
    (v : State) : execute i.command i.parameters s ≠ .done ws v := by
  intro e
  obtain ⟨hs, -, -⟩ := execute_done_ready e
  rw [exec_eq, e, Ran.outcome_done] at h
  obtain rfl := Host.Outcome.next.inj h
  obtain hstalled | hnothing | ⟨_, herror⟩ := ht
  · exact hstalled hs
  · cases hnothing
  · cases herror

/-! ## Before a poll -/

/-- `u` is the state before the poll that follows `k` discarded ones of a start_measurement from `s`, with the answers of
the transport that are left. -/
structure BeforePoll (s : State) (callback : Bool) (k : Nat) (wa : List WriteAnswer) (ra : List ReadAnswer) (u : State) :
    Prop where
  ready : u.Ready
  polls : u.polls = k
  writeAnswers : u.writeAnswers = wa
  readAnswers : u.readAnswers = ra
  addr : u.addr = s.addr
  resetLine : u.resetLine = s.resetLine.drop (5 + 8 * k)
  returned : u.returned = s.returned
  requests : u.requests = s.requests
  events : u.events = s.events ++ discardedEvents s.addr callback k

section
variable {s u : State} {callback : Bool} {k : Nat} {wa : List WriteAnswer} {ra : List ReadAnswer}

theorem BeforePoll.quiet (h : BeforePoll s callback k wa ra u) {m n : Nat} (hq : s.quiet n) (hn : 5 + 8 * k + m ≤ n) :
    u.quiet m := by
  rw [State.quiet, h.resetLine]
  exact (State.quiet_add.mp (State.quiet_mono hq hn)).2

/-- The acts of the poll come after those before it. -/
theorem BeforePoll.events_append (h : BeforePoll s callback k wa ra u) (acts : Nat → List Event) :
    u.events ++ acts u.addr = s.events ++ (discardedEvents s.addr callback k ++ acts s.addr) := by
  rw [h.events, h.addr, List.append_assoc]

theorem startMeasurement_discards (h : s.Ready) (hk : k < 20) (hq : s.quiet (5 + 8 * k))
    (hw : s.writeAnswers = List.replicate (k + 1) .ok ++ wa)
    (ha : s.readAnswers = List.replicate k (.bytes (groups [400, 0])) ++ ra) :
    ∃ n u, startMeasurement callback s = warmupLoop callback (n + 1) u ∧ BeforePoll s callback k wa ra u := by
  obtain ⟨h5, hloop⟩ := State.quiet_add.mp hq
  obtain ⟨n, hn⟩ := Nat.exists_eq_add_of_lt hk
  have hw : s.writeAnswers = .ok :: (List.replicate k .ok ++ wa) := hw
  obtain ⟨u, e, hready, hpolls, hwa, hra, haddr, hline, hret, hreq, hev⟩ :=
    warmupLoop_discards callback k (n + 1)
      (((s.pass 5).afterSettle ⟨"init_air_quality", 0x2003, 0, 0⟩ [] (List.replicate k .ok ++ wa)).setPolls 0) wa ra h
      hloop (by simpa [warmupCap] using hk) rfl ha
  refine ⟨n, u, ?_, hready, ?_, hwa, hra, haddr, ?_, hret, hreq, ?_⟩
  · rw [startMeasurement_eq callback h h5 hw, ← e, show warmupCap = n + 1 + k by rw [warmupCap]; omega]
  · rw [hpolls, State.setPolls_polls, Nat.zero_add]
  · rw [hline, ← List.drop_drop]
    rfl
  · rw [hev]
    simp only [State.afterSettle, State.setPolls, discardedEvents, List.append_assoc]
    rfl

/-- A poll that hands no value back ends the loop. -/
theorem warmupLoop_of_not_done (h : ∀ ws t, execute .measureAirQuality [] u ≠ .done ws t) (callback : Bool) (n : Nat)
    (give : Unit → Returned) : (warmupLoop callback (n + 1) u).outcome give = exec (.measureAirQuality []) u := by
  rw [exec_eq, warmupLoop, getAirQuality, Ran.bind_assoc]
  exact Ran.bind_outcome_of_not_done h _ _ _

/-- A poll that differs from the placeholder, or is the last one allowed, ends the loop. -/
theorem warmupLoop_last (h : u.Ready) (hq : u.quiet 7) {w0 w1 : Word} (hw : u.writeAnswers = .ok :: wa)
    (ha : u.readAnswers = .bytes (groups [w0, w1]) :: ra)
    (hend : (w0, w1) ≠ warmupReading ∨ u.polls + 1 = warmupCap) (callback : Bool) (n : Nat) :
    warmupLoop callback (n + 1) u =
      .done () ((((u.pass 7).afterRead ⟨"measure_air_quality", 0x2008, 0, 2⟩ [] wa ra).afterDecode [w0, w1]).setPolls
        (u.polls + 1)) := by
  rw [warmupLoop, getAirQuality_eq h hq w0 w1 hw ha, Ran.bind_done]
  by_cases hne : (w0, w1) ≠ warmupReading
  · exact if_pos hne
  · exact (if_neg hne).trans (if_pos (hend.resolve_left hne))

end

/-! ## Errors -/

/-- The poll that follows `k` discarded ones, where it hands no value back, is the end of start_measurement. -/
theorem exists_beforePoll {s : State} (callback : Bool) {k : Nat} {wa : List WriteAnswer} {ra : List ReadAnswer}
    (h : s.Ready) (hk : k < 20) (hq : s.quiet (5 + 8 * k)) (hw : s.writeAnswers = List.replicate (k + 1) .ok ++ wa)
    (ha : s.readAnswers = List.replicate k (.bytes (groups [400, 0])) ++ ra) :
    ∃ u, BeforePoll s callback k wa ra u ∧ ∀ t, exec (.measureAirQuality []) u = .next t → t.NoValue →
      perform (.startMeasurement callback) s = .next t := by
  obtain ⟨n, u, e, hu⟩ := startMeasurement_discards (callback := callback) h hk hq hw ha
  refine ⟨u, hu, fun t ht hnone => ?_⟩
  rw [perform, e, warmupLoop_of_not_done (not_done_of_noValue ht hnone), ht]

/-- Settles O50: a derived operation is its first command where that hands no value back, and a poll likewise ends
start_measurement. -/
theorem derivedOperationsPropagateErrors : Obligations.DerivedOperationsPropagateErrors := by
  refine ⟨fun o i s t hi h ht => ?first, fun s callback k wa ra h hk hq hw ha => ?poll⟩
  case first => rw [perform_eq_exec hi (not_done_of_noValue h ht), h]
  case poll =>
    obtain ⟨u, hu, hend⟩ := exists_beforePoll callback h hk hq hw ha
    exact ⟨u, hu.ready, hu.polls, hu.writeAnswers, hu.readAnswers, hu.addr, hu.resetLine, hu.returned, hu.requests,
      hu.events, hend⟩

theorem replicate_ok_succ (k : Nat) (wa : List WriteAnswer) :
    List.replicate (k + 2) WriteAnswer.ok ++ wa = List.replicate (k + 1) .ok ++ .ok :: wa := by
  rw [List.replicate_succ', List.append_assoc, List.singleton_append]

/-- Settles O57: the poll is measure_air_quality, whose four errors are those of any command. -/
theorem warmupEndsOnTheErrorOfAPoll : Obligations.WarmupEndsOnTheErrorOfAPoll := by
  intro s callback k wa ra h hk hq ha
  have h5 : s.quiet (5 + 8 * k) := State.quiet_mono hq (by omega)
  refine ⟨fun e hw => ?write, fun hw => ?read⟩
  case write =>
    obtain ⟨u, hu, hend⟩ := exists_beforePoll callback h hk h5 hw ha
    have hrun := failedWriteEndsTheTransaction (.measureAirQuality []) u e wa rfl hu.ready (hu.quiet hq (by omega))
      hu.writeAnswers
    exact ⟨_, hend _ hrun (.inr (.inr ⟨_, rfl⟩)), rfl, hu.polls,
      hu.events_append fun addr => [.busWrite addr [0x20, 0x08]]⟩
  case read =>
    rw [replicate_ok_succ] at hw
    obtain ⟨u, hu, hend⟩ := exists_beforePoll callback h hk h5 hw ha
    have h6 : u.quiet 6 := hu.quiet hq (by omega)
    have h7 : u.quiet 7 := hu.quiet hq (by omega)
    have hevents := hu.events_append pollEvents
    refine ⟨fun e ra' hra => ?readError, fun bs ra' hra hlen => ?length, fun ws b0 b1 x rest ra' hra hlen hx => ?group⟩
    case readError =>
      have hrun := failedReadEndsTheTransaction (.measureAirQuality []) u e wa ra' rfl (by decide) hu.ready h6
        hu.writeAnswers (hu.readAnswers.trans hra)
      exact ⟨_, hend _ hrun (.inr (.inr ⟨_, rfl⟩)), rfl, hu.polls, hevents⟩
    case length =>
      have hrun := badResponseIsReported.1 (.measureAirQuality []) u bs wa ra' rfl (by decide) hu.ready h7
        hu.writeAnswers (hu.readAnswers.trans hra) hlen
      exact ⟨_, hend _ hrun (.inr (.inr ⟨_, rfl⟩)), rfl, hu.polls, hevents⟩
    case group =>
      have hrun := badResponseIsReported.2 (.measureAirQuality []) u ws b0 b1 x rest wa ra' rfl hu.ready h7
        hu.writeAnswers (hu.readAnswers.trans hra) hlen hx
      exact ⟨_, hend _ hrun (.inr (.inr ⟨_, rfl⟩)), rfl, hu.polls, hevents⟩

/-! ## The end of the loop -/

/-- start_measurement that ends, without an error, at the poll that follows `k` discarded ones. -/
theorem startMeasurement_ends {s : State} (callback : Bool) {k : Nat} {w0 w1 : Word} {wa : List WriteAnswer}
    {ra : List ReadAnswer} (h : s.Ready) (hk : k < 20) (hq : s.quiet (12 + 8 * k))
    (hend : (w0, w1) ≠ warmupReading ∨ k + 1 = warmupCap)
    (hw : s.writeAnswers = List.replicate (k + 2) .ok ++ wa)
    (ha : s.readAnswers = List.replicate k (.bytes (groups [400, 0])) ++ .bytes (groups [w0, w1]) :: ra) :
    ∃ t, perform (.startMeasurement callback) s = .next t ∧ t.returned = .unit ∧ t.polls = k + 1 ∧ t.w = [w0, w1] ∧
      t.writeAnswers = wa ∧ t.readAnswers = ra ∧ t.events = s.events ++ warmupEvents s.addr callback k := by
  rw [replicate_ok_succ] at hw
  obtain ⟨n, u, e, hu⟩ :=
    startMeasurement_discards (callback := callback) h hk (State.quiet_mono hq (by omega)) hw ha
  have hlast := warmupLoop_last hu.ready (hu.quiet hq (by omega)) hu.writeAnswers hu.readAnswers
    (by rwa [hu.polls]) callback n
  refine ⟨_, by rw [perform, e, hlast, Ran.outcome_done], rfl, congrArg (· + 1) hu.polls, rfl, rfl, rfl, ?_⟩
  exact hu.events_append pollEvents

/-- Settles O48: a changed reading ends the loop. -/
theorem warmupEndsOnAChangedReading : Obligations.WarmupEndsOnAChangedReading := by
  intro s callback k eco2 tvoc wa ra h hk hq hchanged hw ha
  have hne : (eco2, tvoc) ≠ warmupReading := by
    rw [warmupReading, Ne, Prod.mk.injEq, not_and_or]
    exact hchanged
  exact startMeasurement_ends callback h hk hq (.inl hne) hw ha

theorem leastElapsed_warmupEvents (addr : Nat) (callback : Bool) (k : Nat) :
    leastElapsed (warmupEvents addr callback k) = 50 + 1025 * k := by
  have hround : leastElapsed (pollEvents addr ++ discardEvents callback) = 1025 := by
    cases callback <;> simp [pollEvents, discardEvents, leastElapsed, Event.leastDuration]
  rw [warmupEvents, discardedEvents, leastElapsed_append, leastElapsed_append, leastElapsed_replicate_flatten, hround]
  simp only [leastElapsed, pollEvents, Event.leastDuration]
  omega

theorem count_callback_warmupEvents (addr : Nat) (callback : Bool) (k : Nat) :
    (warmupEvents addr callback k).count .callback = if callback then k else 0 := by
  have hround : (pollEvents addr ++ discardEvents callback).count .callback = if callback then 1 else 0 := by
    cases callback <;> simp [pollEvents, discardEvents]
  rw [warmupEvents, discardedEvents, List.count_append, List.count_append, List.count_flatten, List.map_replicate,
    List.sum_replicate, hround]
  cases callback <;> simp [pollEvents]

/-- Settles O49: the twentieth poll ends the loop whatever it reads. -/
theorem warmupCapIsTwentyPolls : Obligations.WarmupCapIsTwentyPolls := by
  intro s callback wa ra h hq hw ha
  have ha : s.readAnswers = List.replicate 19 (.bytes (groups [400, 0])) ++ .bytes (groups [400, 0]) :: ra := by
    rw [ha, List.replicate_succ', List.append_assoc, List.singleton_append]
  obtain ⟨t, ht, hret, hpolls, -, hwa, hra, hev⟩ :=
    startMeasurement_ends callback h (k := 19) (by omega) hq (.inr rfl) hw ha
  exact ⟨t, ht, hret, hpolls, hwa, hra, hev, leastElapsed_warmupEvents _ _ 19, count_callback_warmupEvents _ _ 19⟩

end Sys2Proof.Machine

/-! SUPPORT. Exchanges that are never answered (spec/70_reset_and_hazards.md R186): a stuck host has no further step, in a
command, in a derived operation and in the warm-up loop. -/

namespace Sys2Proof.Machine

theorem run_succ_of_step {M : Host.Core} {s t : M.State} (h : M.step s = .next t) (n : Nat) :
    M.run (n + 1) s = M.run n t := by
  rw [Host.Core.run, h]

/-- A stuck host takes no step, whatever resets of the block fall meanwhile. -/
theorem stuckForEver_of_stalled {t : State} {x : Exchange} (h : t.stalled = some x) : t.StuckForEver x := by
  intro n
  induction n generalizing t with
  | zero => exact ⟨t, rfl, h, rfl, rfl, rfl⟩
  | succ n ih =>
    have hstep : Host.Core.step Sys2Proof.core t = .next t.idlePoint := step_stalled (by simp [h])
    obtain ⟨u, hrun, hstalled, hret, hev, hreq⟩ := ih (t := t.idlePoint) (by rw [State.idlePoint_stalled, h])
    refine ⟨u, (run_succ_of_step hstep n).trans hrun, hstalled, ?_, ?_, ?_⟩
    · rw [hret, State.idlePoint_returned]
    · rw [hev, State.idlePoint_events]
    · rw [hreq, State.idlePoint_requests]

theorem State.StuckForEver.noValue {t : State} {x : Exchange} (h : t.StuckForEver x) : t.NoValue := by
  obtain ⟨u, hu, hstalled, -⟩ := h 0
  obtain rfl := Host.Outcome.next.inj hu
  exact .inl (by simp [hstalled])

section
variable {i : Instr} {s : State} (hwf : i.wf = true) (h : s.Ready) (hq : s.quiet 3)
include hwf h hq

/-- A write exchange that is never answered. -/
theorem exec_writeStalls (hw : s.writeAnswers = []) :
    ∃ t, exec i s = .next t ∧ t.returned = s.returned ∧ t.StuckForEver .write ∧
      t.events = s.events ++ [Event.busWrite s.addr (encode i)] := by
  refine ⟨(((s.pass 3).afterWrite i.command.descriptor i.parameters []).idlePoint).stall .write, ?_, ?_,
    stuckForEver_of_stalled rfl, ?_⟩
  · rw [exec_eq, execute, transact_quiet h hq (execute_lookup _) (wf_iff.mp hwf), hw]
    rfl
  · rw [State.stall_returned, State.idlePoint_returned]
    rfl
  · rw [State.stall_events, State.idlePoint_events]
    rfl

/-- A read exchange that is never answered. -/
theorem exec_readStalls {wa : List WriteAnswer} (hr : i.command.descriptor.responseCount ≠ 0)
    (hw : s.writeAnswers = .ok :: wa) (ha : s.readAnswers = []) :
    ∃ t, exec i s = .next t ∧ t.returned = s.returned ∧ t.StuckForEver .read ∧
      t.events = s.events ++ [Event.busWrite s.addr (encode i), .sleep 25,
        .busRead s.addr (3 * i.command.descriptor.responseCount)] := by
  refine ⟨(((s.pass 3).afterRead i.command.descriptor i.parameters wa []).idlePoint.idlePoint.idlePoint).stall .read,
    ?_, ?_, stuckForEver_of_stalled rfl, ?_⟩
  · rw [exec_eq, execute, transact_quiet h hq (execute_lookup _) (wf_iff.mp hwf), hw, ha]
    simp only [if_neg hr]
    rfl
  · simp only [State.stall_returned, State.idlePoint_returned]
    rfl
  · simp only [State.stall_events, State.idlePoint_events]
    rfl

end

/-- Settles O29: a stuck host hands no value back, so the operation around the command, or the poll, ends in its state. -/
theorem unansweredExchangeBlocksForEver : Obligations.UnansweredExchangeBlocksForEver := by
  refine ⟨fun i s hwf h hq hw => ?write, fun i s wa hwf hr h hq hw ha => ?read,
    fun s callback k ra h hk hq hw ha => ?pollWrite, fun s callback k wa h hk hq hw ha => ?pollRead⟩
  case write =>
    obtain ⟨t, ht, hret, hstuck, hev⟩ := exec_writeStalls hwf h hq hw
    exact ⟨t, ht, hret, hstuck, hev, fun o ho => derivedOperationsPropagateErrors.1 o i s t ho ht hstuck.noValue⟩
  case read =>
    obtain ⟨t, ht, hret, hstuck, hev⟩ := exec_readStalls hwf h hq hr hw ha
    exact ⟨t, ht, hret, hstuck, hev, fun o ho => derivedOperationsPropagateErrors.1 o i s t ho ht hstuck.noValue⟩
  case pollWrite =>
    obtain ⟨u, hu, hend⟩ := exists_beforePoll callback h hk (State.quiet_mono hq (by omega))
      (hw.trans (List.append_nil _).symm) ha
    obtain ⟨t, ht, hret, hstuck, hev⟩ := exec_writeStalls (i := .measureAirQuality []) rfl hu.ready
      (hu.quiet hq (by omega)) hu.writeAnswers
    exact ⟨t, hend t ht hstuck.noValue, hret.trans hu.returned, hstuck,
      hev.trans (hu.events_append fun addr => [.busWrite addr [0x20, 0x08]])⟩
  case pollRead =>
    rw [replicate_ok_succ] at hw
    obtain ⟨u, hu, hend⟩ := exists_beforePoll callback h hk (State.quiet_mono hq (by omega)) hw
      (ha.trans (List.append_nil _).symm)
    obtain ⟨t, ht, hret, hstuck, hev⟩ := exec_readStalls (i := .measureAirQuality []) rfl hu.ready
      (hu.quiet hq (by omega)) (by decide) hu.writeAnswers hu.readAnswers
    exact ⟨t, hend t ht hstuck.noValue, hret.trans hu.returned, hstuck, hev.trans (hu.events_append pollEvents)⟩

end Sys2Proof.Machine

/-! SUPPORT. The life of the machine: reset, host reads, construction and shutdown (spec/10_state.md R22, R24,
spec/43_controller.md R120, R131), and a reset inside an operation (spec/70_reset_and_hazards.md R180, R181). -/

namespace Sys2Proof.Machine

/-! ## Reset, host reads, construction -/

/-- Settles O40, register by register of the reset table. -/
theorem resetValues : Obligations.ResetValues :=
  ⟨rfl, rfl, rfl, rfl, rfl, rfl, rfl, rfl, rfl, rfl, rfl, rfl, rfl, rfl⟩

/-- Settles O53: the reset writes the block's registers and no others. -/
theorem resetTouchesTheBlockOnly : Obligations.ResetTouchesTheBlockOnly := by
  intro s
  refine ⟨resetBlock s, rfl, ?_⟩
  and_intros
  all_goals intros; rfl

theorem perform_read_ok {s : State} {r : HostRegister} {v : Nat} (h : readHostRegister s r = .ok v) :
    perform (.read r) s = .next (s.giveBack (.register v)) := by
  rw [perform, hostRead, h]
  rfl

theorem perform_read_error {s : State} {r : HostRegister} {f : Fault} (h : readHostRegister s r = .error f) :
    perform (.read r) s = .fault f := by
  rw [perform, hostRead, h]
  rfl

/-- Settles O54, register by register. -/
theorem hostReads : Obligations.HostReads := by
  refine fun s => ⟨fun i v hv => perform_read_ok ?word, fun i hi => perform_read_error ?noWord,
    fun a b ha hb => perform_read_ok ?byte, fun a ha => perform_read_error ?noByte, rfl, rfl, rfl, rfl, rfl, rfl⟩
  case word => simp only [readHostRegister, State.readW, hv]
  case noWord => simp only [readHostRegister, State.readW, List.getElem?_eq_none hi]
  case byte => simp only [readHostRegister, State.txByte, if_pos ha, hb]
  case noByte => simp only [readHostRegister, State.txByte, if_neg (not_lt.mpr ha)]

/-- Settles O52: whether a handle is held is all that decides. -/
theorem constructionState : Obligations.ConstructionState := by
  refine ⟨fun s handle address h => ?accepted, fun s handle address h => ?refused⟩
  case accepted =>
    rw [perform, construct, h]
    rfl
  case refused =>
    rw [perform, construct, h]
    rfl

/-! ## Shutdown -/

theorem perform_shutdown_held {s : State} (hb : s.busHeld = true) (hr : s.busReleased = false) :
    perform .shutdown s = .next { s with
      busHeld := false, busReleased := true, events := s.events ++ [.release], returned := .unit } := by
  rw [perform, shutdown, hb, hr]
  rfl

theorem perform_shutdown_notHeld {s : State} (h : s.busHeld = false ∨ s.busReleased = true) :
    perform .shutdown s = .next { s with returned := .unit } := by
  have hcond : (s.busHeld && !s.busReleased) = false := by rcases h with h | h <;> simp [h]
  rw [perform, shutdown, hcond]
  rfl

end Sys2Proof.Machine

/-! SUPPORT. What a call can do, said once for every property of the state it may keep (spec/10_state.md R10,
spec/43_controller.md R121 to R131): `Kept.call`, from what the operations of the block, a command and the host's own
updates do. -/

namespace Sys2Proof.Machine

/-! ## The operations of the block -/

/-- The state an operation of the block ends in, when no reset falls inside it. -/
inductive BlockEnds (s : State) : State → Prop where
  | crc8 (v : Word) : BlockEnds s (s.runChecksum v).complete
  | found : BlockEnds s s.complete
  | notFound : BlockEnds s (s.record .unknownCommand)
  | encode {d : Descriptor} {ps : List Word} : BlockEnds s (s.afterEncode d ps)
  | countMismatch {d : Descriptor} {ps : List Word} : BlockEnds s (s.afterCountMismatch d ps)
  | decode {ws : List Word} : BlockEnds s (s.afterDecode ws)
  | malformed {bs : List Byte} {n : Nat} : BlockEnds s (s.afterMalformed bs n)
  | mismatch {bs : List Byte} {n : Nat} {ws : List Word} {b0 b1 x : Byte} {rest : List Byte} :
      bs = groups ws ++ b0 :: b1 :: x :: rest → bs.length = 3 * n → x ≠ checksum (assemble b0 b1) →
      BlockEnds s (s.afterMismatch bs n ws.length (assemble b0 b1) x)

theorem lookupResult_ends (found : Option Descriptor) (s : State) : (lookupResult found s).Ends (BlockEnds s) := by
  rcases lookupResult_cases found s with ⟨_, _, e⟩ | ⟨_, e⟩ <;> rw [e]
  · exact .found
  · exact .notFound

theorem opEncode_ends (d : Descriptor) (ps : List Word) (s : State) : (opEncode d ps s).Ends (BlockEnds s) := by
  rw [opEncode_eq]
  split
  · exact .encode
  · exact .countMismatch

theorem opDecode_ends (bs : List Byte) (n : Nat) (s : State) : (opDecode bs n s).Ends (BlockEnds s) := by
  rcases opDecode_cases bs n s with ⟨_, e⟩ | ⟨_, _, _, e⟩ | ⟨_, _, _, _, _, hlen, hx, hbs, e⟩ <;> rw [e]
  · exact .malformed
  · exact .decode
  · exact .mismatch hbs hlen hx

/-! ## Properties that are kept -/

theorem Ran.Ends.mono {α : Type} {P Q : State → Prop} {x : Ran α} (h : x.Ends P) (hPQ : ∀ s, P s → Q s) : x.Ends Q := by
  cases x with
  | done _ _ | raised _ _ | blocked _ | abandoned _ => exact hPQ _ h
  | fault _ => exact h
  | refused _ => trivial

/-- `P` is kept by the operations of the block, by commands, and by what the warm-up loop does between them. -/
structure Kept (P : State → Prop) : Prop where
  pass : ∀ {s}, P s → P (s.pass 1)
  reset : ∀ {s}, P s → P (resetBlock s)
  giveBack : ∀ {s} r, P s → P (s.giveBack r)
  block : ∀ {s t}, P s → BlockEnds s t → P t
  command : ∀ {c ps s t}, P s → CommandEnds c ps s t → P t
  setPolls : ∀ {s n}, P s → n ≤ warmupCap → P (s.setPolls n)
  emit : ∀ {s} e, P s → s.Ready → P (s.emit e)

namespace Kept

variable {P : State → Prop} (hP : Kept P) {s : State}
include hP

theorem idlePoint (h : P s) : P s.idlePoint := by
  unfold State.idlePoint
  split
  · exact hP.reset (hP.pass h)
  · exact hP.pass h

theorem ends_issue {α : Type} {op : State → Ran α} (hop : ∀ u, (op u).Ends (BlockEnds u)) (h : P s) :
    (issue op s).Ends P := by
  rcases issue_cases op s with ⟨_, e⟩ | ⟨_, e⟩ <;> rw [e]
  · exact (hop _).mono fun t ht => hP.block (hP.pass h) ht
  · exact hP.reset (hP.pass h)

theorem ends_execute (c : Command) (ps : List Word) (h : P s) : (execute c ps s).Ends P :=
  (execute_ends c ps s).mono fun _ ht => hP.command h ht

theorem next_exec {i : Instr} {t : State} (h : P s) (ht : exec i s = .next t) : P t := by
  rw [exec_eq] at ht
  exact (hP.ends_execute _ _ h).next (fun _ r => hP.giveBack r) ht

/-- EXECUTE of an unknown name or selector. -/
theorem ends_transact_unknown {lookup : State → Ran Descriptor} {ps : List Word} (h : P s)
    (hl : ∀ u, lookup u = .raised (.block .unknownCommand) (u.record .unknownCommand)) :
    (transact lookup ps s).Ends P := by
  by_cases hs : s.Ready
  · cases hf : s.resetFalls
    · rw [transact_unknown hs (State.quiet_one.mpr hf) hl]
      exact hP.block (hP.pass h) .notFound
    · rw [transact_lookupAbandoned hs hf]
      exact hP.reset (hP.pass h)
  · rcases transact_of_not_ready hs lookup ps with e | ⟨r, e⟩ <;> rw [e]
    · exact h
    · trivial

theorem ends_executeName (name : String) (ps : List Word) (h : P s) : (transact (opLookupName name) ps s).Ends P := by
  by_cases hname : ∀ c : Command, name ≠ c.descriptor.name
  · exact hP.ends_transact_unknown h (opLookupName_unknown hname)
  · obtain ⟨c, hc⟩ := not_forall_not.mp hname
    rw [hc, opLookupName_command]
    exact hP.ends_execute c ps h

theorem ends_executeSelector (n : Nat) (ps : List Word) (h : P s) : (transact (opLookupSelector n) ps s).Ends P := by
  by_cases hn : 7 < n
  · exact hP.ends_transact_unknown h (opLookupSelector_unknown hn)
  · obtain ⟨c, rfl⟩ := (le_seven_iff_exists_selector n).mp (not_lt.mp hn)
    exact hP.ends_execute c ps h

/-! ### The warm-up loop -/

omit hP in
theorem polls_betweenPolls (callback : Bool) (s : State) : (sleep pollDelay (progress callback s)).polls = s.polls := by
  cases callback <;> simp [sleep, progress]

theorem betweenPolls (callback : Bool) (h : P s) (hs : s.Ready) : P (sleep pollDelay (progress callback s)) := by
  cases callback
  · exact hP.idlePoint (hP.emit _ h hs)
  · exact hP.idlePoint (hP.emit _ (hP.emit _ h hs) hs)

theorem ends_warmupLoop (callback : Bool) (n : Nat) (h : P s) (hpolls : s.polls < warmupCap) :
    (warmupLoop callback n s).Ends P := by
  induction n generalizing s with
  | zero => exact h
  | succ n ih =>
    rw [warmupLoop, getAirQuality_eq_bind, Ran.bind_assoc]
    refine (hP.ends_execute _ _ h).bind (fun _ => id) fun ws t e ht => ?_
    obtain ⟨-, -, -, htp, -, -, -⟩ := State.hostView_eq_iff.mp (execute_hostView e)
    have hset : P (t.setPolls (t.polls + 1)) := hP.setPolls ht (by omega)
    rw [Ran.bind_done]
    dsimp only
    split
    · exact hset
    · split
      · exact hset
      · next hcap =>
        have hne : t.polls + 1 ≠ warmupCap := hcap
        have hready : t.Ready := execute_done_ready e
        refine ih (hP.betweenPolls callback hset hready) ?_
        rw [polls_betweenPolls, State.setPolls_polls]
        omega

theorem ends_startMeasurement (callback : Bool) (h : P s) : (startMeasurement callback s).Ends P :=
  (hP.ends_execute _ _ h).bind (fun _ => id) fun _ _ _ ht =>
    hP.ends_warmupLoop callback _ (hP.setPolls ht (by omega)) (by simp [warmupCap])

/-! ### Calls -/

theorem derived {o : Operation} {i : Instr} (hi : firstCommand s.roundTies o = some i) (h : P s) :
    ∃ (α : Type) (x : Ran α) (give : α → Returned), perform o s = x.outcome give ∧ x.Ends P := by
  by_cases ho : ∀ callback, o ≠ .startMeasurement callback
  · exact ⟨_, _, _, perform_derived hi ho, hP.ends_execute _ _ h⟩
  · obtain ⟨callback, rfl⟩ := not_forall_not.mp ho
    exact ⟨_, _, _, rfl, hP.ends_startMeasurement callback h⟩

end Kept

/-- The calls that are no operation of the block, no command and no operation derived from one. -/
inductive LifeCall : Operation → Prop where
  | read (r : HostRegister) : LifeCall (.read r)
  | shutdown : LifeCall .shutdown
  | construct (handle : Bool) (address : Nat) : LifeCall (.construct handle address)
  | reset : LifeCall .reset

/-- Every other call ends, if it is not refused, in a state with the property. -/
theorem Kept.call {P : State → Prop} (hP : Kept P) {s : State} (h : P s) (o : Operation) :
    LifeCall o ∨ ∃ (α : Type) (x : Ran α) (give : α → Returned), perform o s = x.outcome give ∧ x.Ends P := by
  cases hi : firstCommand s.roundTies o with
  | some i => exact .inr (hP.derived hi h)
  | none =>
    cases o with
    | crc8 v => exact .inr ⟨_, _, _, rfl, hP.ends_issue (op := opCrc8 v) (fun _ => .crc8 v) h⟩
    | lookupName name => exact .inr ⟨_, _, _, rfl, hP.ends_issue (lookupResult_ends _) h⟩
    | lookupSelector n => exact .inr ⟨_, _, _, rfl, hP.ends_issue (lookupResult_ends _) h⟩
    | encode d ps => exact .inr ⟨_, _, _, rfl, hP.ends_issue (opEncode_ends d ps) h⟩
    | decode bs n => exact .inr ⟨_, _, _, rfl, hP.ends_issue (opDecode_ends bs n) h⟩
    | executeName name ps => exact .inr ⟨_, _, _, rfl, hP.ends_executeName name ps h⟩
    | executeSelector n ps => exact .inr ⟨_, _, _, rfl, hP.ends_executeSelector n ps h⟩
    | read r => exact .inl (.read r)
    | shutdown => exact .inl .shutdown
    | construct handle address => exact .inl (.construct handle address)
    | reset => exact .inl .reset
    | setHumidity x =>
      have hx : x.toWord? s.roundTies = none := Option.map_eq_none_iff.mp hi
      exact .inr ⟨_, .refused .notAWord, fun _ : Unit => .unit, by rw [perform, setHumidity, hx], trivial⟩
    | getSerialId | getFeatureSetVersion | startMeasurement _ | getAirQuality | getBaseline | setBaseline _ _ => cases hi

/-! ## Host reads, shutdown, construction, reset -/

/-- Every next state of such a call. -/
theorem LifeCall.cases_next {o : Operation} (ho : LifeCall o) {s t : State} (h : perform o s = .next t) :
    (∃ r, t = s.giveBack r) ∨ t = resetBlock s ∨
    (s.busHeld = true ∧ s.busReleased = false ∧
      t = { s with busHeld := false, busReleased := true, events := s.events ++ [.release], returned := .unit }) ∨
    (∃ handle address, o = .construct handle address ∧ s.busHeld = false ∧
      t = { s with busHeld := handle, busReleased := false, addr := address, polls := 0, returned := .unit }) := by
  cases ho with
  | read r =>
    cases hr : readHostRegister s r with
    | ok v =>
      rw [perform_read_ok hr] at h
      exact .inl ⟨_, (Host.Outcome.next.inj h).symm⟩
    | error f =>
      rw [perform_read_error hr] at h
      cases h
  | shutdown =>
    by_cases hheld : s.busHeld = false ∨ s.busReleased = true
    · rw [perform_shutdown_notHeld hheld] at h
      exact .inl ⟨.unit, (Host.Outcome.next.inj h).symm⟩
    · rw [not_or, Bool.not_eq_false, Bool.not_eq_true] at hheld
      obtain ⟨hb, hr⟩ := hheld
      rw [perform_shutdown_held hb hr] at h
      exact .inr (.inr (.inl ⟨hb, hr, (Host.Outcome.next.inj h).symm⟩))
  | construct handle address =>
    cases hb : s.busHeld
    · rw [constructionState.1 s handle address hb] at h
      exact .inr (.inr (.inr ⟨_, _, rfl, rfl, (Host.Outcome.next.inj h).symm⟩))
    · rw [constructionState.2 s handle address hb] at h
      cases h
  | reset => exact .inr (.inl (Host.Outcome.next.inj h).symm)

/-- What a host read that faults has asked for (R31). -/
theorem readHostRegister_error {s : State} {r : HostRegister} {f : Fault} (h : readHostRegister s r = .error f) :
    (∃ i, r = .responseWord i ∧ s.nw ≤ i) ∨ ∃ a, r = .txByte a ∧ (s.txlen ≤ a ∨ s.txbuf.read a = none) := by
  cases r with
  | responseWord i =>
    refine .inl ⟨i, rfl, ?_⟩
    by_contra hlt
    rw [readHostRegister, State.readW, List.getElem?_eq_getElem (not_le.mp hlt)] at h
    cases h
  | txByte a =>
    refine .inr ⟨a, rfl, ?_⟩
    by_contra hval
    obtain ⟨hlt, hsome⟩ := not_or.mp hval
    obtain ⟨b, hb⟩ := Option.ne_none_iff_exists'.mp hsome
    rw [readHostRegister, State.txByte, if_pos (not_le.mp hlt), hb] at h
    cases h
  | status | errReceived | errExpected | errIndex | responseCount | txLength => cases h

theorem LifeCall.cases_fault {o : Operation} (ho : LifeCall o) {s : State} {f : Fault} (h : perform o s = .fault f) :
    (∃ i, o = .read (.responseWord i) ∧ s.nw ≤ i) ∨
      ∃ a, o = .read (.txByte a) ∧ (s.txlen ≤ a ∨ s.txbuf.read a = none) := by
  cases ho with
  | read r =>
    cases hr : readHostRegister s r with
    | ok v =>
      rw [perform_read_ok hr] at h
      cases h
    | error f =>
      obtain ⟨i, rfl, hi⟩ | ⟨a, rfl, ha⟩ := readHostRegister_error hr
      · exact .inl ⟨i, rfl, hi⟩
      · exact .inr ⟨a, rfl, ha⟩
  | shutdown =>
    by_cases hheld : s.busHeld = false ∨ s.busReleased = true
    · cases (perform_shutdown_notHeld hheld).symm.trans h
    · rw [not_or, Bool.not_eq_false, Bool.not_eq_true] at hheld
      cases (perform_shutdown_held hheld.1 hheld.2).symm.trans h
  | construct handle address =>
    cases hb : s.busHeld
    · cases (constructionState.1 s handle address hb).symm.trans h
    · cases (constructionState.2 s handle address hb).symm.trans h
  | reset => cases h

/-! ## The statements -/

theorem kept_true : Kept fun _ => True where
  pass := id
  reset := id
  giveBack _ := id
  block h _ := h
  command h _ := h
  setPolls h _ := h
  emit _ h _ := h

/-- Settles O41: every call but a host read either ends in a state or is refused. -/
theorem onlyHostReadsFault : Obligations.OnlyHostReadsFault := by
  intro s f hf
  rcases step_cases s with e | ⟨_, e⟩ | ⟨_, ⟨_, rs, i, _, e⟩ | ⟨o, rs, hr, e⟩⟩
  · cases e.symm.trans hf
  · cases e.symm.trans hf
  · rw [e, exec_eq] at hf
    exact absurd hf (kept_true.ends_execute (s := s.setRequests rs) _ _ True.intro).no_fault
  · rw [e] at hf
    obtain hlife | ⟨_, x, give, hx, hends⟩ := kept_true.call (s := s.setRequests rs) True.intro o
    · obtain ⟨i, rfl, hi⟩ | ⟨a, rfl, ha⟩ := hlife.cases_fault hf
      · exact ⟨rs, .inl ⟨i, hr, hi⟩⟩
      · exact ⟨rs, .inr ⟨a, hr, ha⟩⟩
    · exact absurd (hx.symm.trans hf) hends.no_fault

/-- An operation of the block does nothing on the bus and takes no request. -/
theorem BlockEnds.host {s t : State} (h : BlockEnds s t) :
    t.events = s.events ∧ t.requests = s.requests ∧ t.busHeld = s.busHeld ∧ t.busReleased = s.busReleased := by
  cases h <;> exact ⟨rfl, rfl, rfl, rfl⟩

theorem CommandEnds.events_requests {c : Command} {ps : List Word} {s t : State} (h : CommandEnds c ps s t) :
    s.events <+: t.events ∧ t.requests = s.requests := by
  rcases h.frame with ⟨_, rfl⟩ | hframe
  · exact ⟨List.prefix_refl _, rfl⟩
  · obtain ⟨k, hk, -⟩ := hframe.acts
    obtain ⟨-, -, -, -, -, -, hreq⟩ := State.hostView_eq_iff.mp hframe.host
    exact ⟨hk ▸ List.prefix_append _ _, hreq⟩

/-- Acts are only appended, and the requests are left to the step. -/
theorem kept_appends (es : List Event) (rs : List Request) : Kept fun u => es <+: u.events ∧ u.requests = rs where
  pass := id
  reset := id
  giveBack _ := id
  block h ht := by
    obtain ⟨hev, hreq, -, -⟩ := ht.host
    rwa [hev, hreq]
  command h ht := by
    obtain ⟨hev, hreq⟩ := ht.events_requests
    exact ⟨h.1.trans hev, hreq.trans h.2⟩
  setPolls h _ := h
  emit _ h _ := ⟨h.1.trans (List.prefix_append _ _), h.2⟩

/-- Settles O42: what a request does is appended, and it alone is taken off. -/
theorem stepOnlyAppendsActs : Obligations.StepOnlyAppendsActs := by
  intro s t ht
  have hstart : ∀ rs, s.events <+: (s.setRequests rs).events ∧ (s.setRequests rs).requests = rs :=
    fun rs => ⟨List.prefix_refl _, rfl⟩
  rcases step_cases s with e | ⟨_, e⟩ | ⟨_, ⟨bs, rs, i, hr, e⟩ | ⟨o, rs, hr, e⟩⟩
  · obtain rfl := Host.Outcome.next.inj (e.symm.trans ht)
    exact ⟨by rw [State.idlePoint_events], .inl (State.idlePoint_requests s)⟩
  · cases e.symm.trans ht
  · obtain ⟨hev, hreq⟩ := (kept_appends s.events rs).next_exec (hstart rs) (e.symm.trans ht)
    exact ⟨hev, .inr ⟨_, by rw [hr, hreq]⟩⟩
  · have hkept : s.events <+: t.events ∧ t.requests = rs := by
      obtain hlife | ⟨_, x, give, hx, hends⟩ := (kept_appends s.events rs).call (hstart rs) o
      · obtain ⟨r, rfl⟩ | rfl | ⟨-, -, rfl⟩ | ⟨_, _, -, -, rfl⟩ := hlife.cases_next (e.symm.trans ht)
        · exact hstart rs
        · exact hstart rs
        · exact ⟨List.prefix_append _ _, rfl⟩
        · exact hstart rs
      · exact hends.next (fun _ _ => id) (hx.symm.trans (e.symm.trans ht))
    exact ⟨hkept.1, .inr ⟨_, by rw [hr, hkept.2]⟩⟩

theorem CommandEnds.unchanged_of_not_ready {c : Command} {ps : List Word} {s t : State} (h : CommandEnds c ps s t)
    (hs : ¬ s.Ready) : t = s := by
  cases h with
  | unchanged _ => rfl
  | abandonedEarly hr | countMismatch hr | writeStalls hr | writeFails hr | noResponse hr | readStalls hr
  | readFails hr | abandonedLate hr | malformed hr | words hr | mismatch hr => exact absurd hr hs

/-- The host does nothing on the bus without its handle. -/
theorem kept_released (es : List Event) :
    Kept fun u => u.events = es ∧ u.busReleased = true ∧ u.busHeld = false where
  pass := id
  reset := id
  giveBack _ := id
  block h ht := by
    obtain ⟨hev, -, hheld, hrel⟩ := ht.host
    rwa [hev, hheld, hrel]
  command {c ps s t} h ht := by
    obtain ⟨hev, hrel, hb⟩ := h
    have hs : ¬ s.Ready := fun ⟨_, hheld, _⟩ => Bool.false_ne_true (hb.symm.trans hheld)
    rw [ht.unchanged_of_not_ready hs]
    exact ⟨hev, hrel, hb⟩
  setPolls h _ := h
  emit _ h hs := by
    obtain ⟨-, -, hb⟩ := h
    obtain ⟨-, hheld, -⟩ := hs
    cases hb.symm.trans hheld

/-- Settles O51: the handle is released where it is held, and without it no command starts. -/
theorem shutdownReleasesExactlyOnce : Obligations.ShutdownReleasesExactlyOnce := by
  refine ⟨fun s hb hr => perform_shutdown_held hb hr, fun s h => perform_shutdown_notHeld h,
    fun s t hr hb ht hconstruct => ?after⟩
  case after =>
    have hstart : ∀ rs, (s.setRequests rs).events = s.events ∧ (s.setRequests rs).busReleased = true ∧
        (s.setRequests rs).busHeld = false := fun rs => ⟨rfl, hr, hb⟩
    rcases step_cases s with e | ⟨_, e⟩ | ⟨_, ⟨bs, rs, i, _, e⟩ | ⟨o, rs, ho, e⟩⟩
    · obtain rfl := Host.Outcome.next.inj (e.symm.trans ht)
      exact (kept_released s.events).idlePoint ⟨rfl, hr, hb⟩
    · cases e.symm.trans ht
    · exact (kept_released s.events).next_exec (hstart rs) (e.symm.trans ht)
    · obtain hlife | ⟨_, x, give, hx, hends⟩ := (kept_released s.events).call (hstart rs) o
      · obtain ⟨r, rfl⟩ | rfl | ⟨hheld, -, -⟩ | ⟨_, _, rfl, -, -⟩ := hlife.cases_next (e.symm.trans ht)
        · exact hstart rs
        · exact hstart rs
        · cases hb.symm.trans hheld
        · exact absurd ho (hconstruct _ _ _)
      · exact hends.next (fun _ _ => id) (hx.symm.trans (e.symm.trans ht))

end Sys2Proof.Machine

/-! SUPPORT. The invariant of the machine (spec/10_state.md R14, R18, R19, R22, R30): kept by each update of the state,
so by every operation of the block, every command and every call. -/

namespace Sys2Proof.Machine

/-- A byte sequence as a buffer has a value at exactly the offsets below its length. -/
theorem Memory.isSome_read_ofBytes (a : Nat) (bs : List Byte) :
    ((Memory.ofBytes bs).read a).isSome = true ↔ a < bs.length := by
  simp [Memory.read_ofBytes]

/-- Settles O39: the block's registers are empty, and the host holds an unreleased handle. -/
theorem resetHasTheInvariant : Obligations.ResetHasTheInvariant where
  txWf := rfl
  rxWf := rfl
  txExact a := Memory.isSome_read_ofBytes a []
  rxExact a := Memory.isSome_read_ofBytes a []
  txFrame := .inl rfl
  allOrNothing := .inl rfl
  giBound := Nat.zero_le _
  recordZero _ := ⟨rfl, rfl, rfl⟩
  recordDiffers := nofun
  noBusCode := nofun
  pollsBound := Nat.zero_le _
  heldNotReleased _ := rfl

namespace State.Inv

variable {s : State} (h : s.Inv)
include h

/-! ## The updates of the state -/

theorem pass (n : Nat) : (s.pass n).Inv := { h with }

theorem giveBack (r : Returned) : (s.giveBack r).Inv := { h with }

theorem stall (x : Exchange) : (s.stall x).Inv := { h with }

theorem emit (e : Event) : (s.emit e).Inv := { h with }

theorem setRequests (rs : List Request) : (s.setRequests rs).Inv := { h with }

theorem setPolls {n : Nat} (hn : n ≤ warmupCap) : (s.setPolls n).Inv := { h with pollsBound := hn }

/-- Reset leaves the block's registers empty and the host's alone. -/
theorem resetBlock : (resetBlock s).Inv :=
  { resetHasTheInvariant with
    pollsBound := h.pollsBound
    heldNotReleased := h.heldNotReleased }

theorem reached {n : Nat} {u : State} (hu : Reached n s u) : u.Inv := by
  rcases hu with rfl | ⟨_, rfl⟩
  · exact h.pass n
  · exact (h.pass n).resetBlock

/-- The record of success. -/
theorem complete : s.complete.Inv :=
  { h with
    recordZero := fun _ => ⟨rfl, rfl, rfl⟩
    recordDiffers := nofun
    noBusCode := nofun }

theorem recordUnknown : (s.record .unknownCommand).Inv :=
  { h with
    recordZero := fun _ => ⟨rfl, rfl, rfl⟩
    recordDiffers := nofun
    noBusCode := nofun }

theorem runChecksum (v : Word) : (s.runChecksum v).Inv := { h with }

/-- ENCODE leaves a frame of its parameters in TXBUF. -/
theorem afterEncode (d : Descriptor) (ps : List Word) : (s.afterEncode d ps).Inv :=
  { h with
    txWf := Memory.ofBytes_wf _
    txExact := fun a => (Memory.isSome_read_ofBytes a _).trans (commandFrame_length d.opcode ps ▸ Iff.rfl)
    txFrame := .inr rfl
    giBound := le_max_left _ _
    recordZero := fun _ => ⟨rfl, rfl, rfl⟩
    recordDiffers := nofun
    noBusCode := nofun }

theorem afterCountMismatch (d : Descriptor) (ps : List Word) : (s.afterCountMismatch d ps).Inv :=
  { h with
    txWf := rfl
    txExact := fun a => Memory.isSome_read_ofBytes a []
    txFrame := .inl rfl
    giBound := Nat.zero_le _
    recordZero := fun _ => ⟨rfl, rfl, rfl⟩
    recordDiffers := nofun
    noBusCode := nofun }

/-- DECODE leaves the words of its groups, as many as were asked for. -/
theorem afterDecode (ws : List Word) : (s.afterDecode ws).Inv :=
  { h with
    rxWf := Memory.ofBytes_wf _
    rxExact := fun a => (Memory.isSome_read_ofBytes a _).trans (groups_length ws ▸ Iff.rfl)
    allOrNothing := .inr rfl
    giBound := le_max_right _ _
    recordZero := fun _ => ⟨rfl, rfl, rfl⟩
    recordDiffers := nofun
    noBusCode := nofun }

theorem afterMalformed (bs : List Byte) (n : Nat) : (s.afterMalformed bs n).Inv :=
  { h with
    rxWf := Memory.ofBytes_wf _
    rxExact := fun a => Memory.isSome_read_ofBytes a _
    allOrNothing := .inl rfl
    giBound := Nat.zero_le _
    recordZero := fun _ => ⟨rfl, rfl, rfl⟩
    recordDiffers := nofun
    noBusCode := nofun }

/-- The index of the failing group is below the count, and its checksum differs. -/
theorem afterMismatch {bs : List Byte} {n : Nat} {ws : List Word} {b0 b1 x : Byte} {rest : List Byte}
    (hbs : bs = groups ws ++ b0 :: b1 :: x :: rest) (hlen : bs.length = 3 * n) (hx : x ≠ checksum (assemble b0 b1)) :
    (s.afterMismatch bs n ws.length (assemble b0 b1) x).Inv :=
  { h with
    rxWf := Memory.ofBytes_wf _
    rxExact := fun a => Memory.isSome_read_ofBytes a _
    allOrNothing := .inl rfl
    giBound := by
      have hle : ws.length ≤ n := by
        have hsum := congrArg List.length hbs
        rw [List.length_append, groups_length, hlen] at hsum
        omega
      exact le_max_of_le_right hle
    recordZero := fun hst => absurd rfl hst
    recordDiffers := fun _ => hx
    noBusCode := nofun }

/-! ## Operations of the block and commands -/

theorem block {t : State} (ht : BlockEnds s t) : t.Inv := by
  cases ht with
  | crc8 v => exact (h.runChecksum v).complete
  | found => exact h.complete
  | notFound => exact h.recordUnknown
  | encode => exact h.afterEncode _ _
  | countMismatch => exact h.afterCountMismatch _ _
  | decode => exact h.afterDecode _
  | malformed => exact h.afterMalformed _ _
  | mismatch hbs hlen hx => exact h.afterMismatch hbs hlen hx

theorem afterWrite (d : Descriptor) (ps : List Word) (wa : List WriteAnswer) : (s.afterWrite d ps wa).Inv :=
  { h.afterEncode d ps with }

theorem afterSettle (d : Descriptor) (ps : List Word) (wa : List WriteAnswer) : (s.afterSettle d ps wa).Inv :=
  { h.afterEncode d ps with }

theorem afterRead (d : Descriptor) (ps : List Word) (wa : List WriteAnswer) (ra : List ReadAnswer) :
    (s.afterRead d ps wa ra).Inv :=
  { h.afterEncode d ps with }

theorem command {c : Command} {ps : List Word} {t : State} (ht : CommandEnds c ps s t) : t.Inv := by
  cases ht with
  | unchanged _ => exact h
  | abandonedEarly _ _ _ => exact (h.pass _).resetBlock
  | countMismatch _ hu _ => exact (h.reached hu).afterCountMismatch _ _
  | writeStalls _ hu _ _ hv => exact (((h.reached hu).afterWrite _ _ _).reached hv).stall _
  | writeFails _ hu _ _ hv => exact ((h.reached hu).afterWrite _ _ _).reached hv
  | noResponse _ hu _ _ _ hv => exact ((h.reached hu).afterSettle _ _ _).reached hv
  | readStalls _ hu _ _ _ _ hv => exact (((h.reached hu).afterRead _ _ _ _).reached hv).stall _
  | readFails _ hu _ _ _ _ hv => exact ((h.reached hu).afterRead _ _ _ _).reached hv
  | abandonedLate _ hu _ _ _ _ hv _ => exact ((((h.reached hu).afterRead _ _ _ _).reached hv).pass 1).resetBlock
  | malformed _ hu _ _ _ _ hv _ => exact ((((h.reached hu).afterRead _ _ _ _).reached hv).pass 1).afterMalformed _ _
  | words _ hu _ _ _ _ hv _ => exact ((((h.reached hu).afterRead _ _ _ _).reached hv).pass 1).afterDecode _
  | mismatch _ hu _ _ _ _ hv hbs hlen hx =>
    exact ((((h.reached hu).afterRead _ _ _ _).reached hv).pass 1).afterMismatch hbs hlen hx

end State.Inv

theorem kept_inv : Kept State.Inv where
  pass h := h.pass 1
  reset h := h.resetBlock
  giveBack r h := h.giveBack r
  block h := h.block
  command h := h.command
  setPolls h := h.setPolls
  emit e h _ := h.emit e

/-- Host reads, shutdown, construction and reset. -/
theorem LifeCall.inv {o : Operation} (ho : LifeCall o) {s t : State} (h : s.Inv) (ht : perform o s = .next t) :
    t.Inv := by
  obtain ⟨r, rfl⟩ | rfl | ⟨-, -, rfl⟩ | ⟨_, _, -, -, rfl⟩ := ho.cases_next ht
  · exact h.giveBack r
  · exact h.resetBlock
  · exact { h with heldNotReleased := fun hheld => by cases hheld }
  · exact { h with pollsBound := Nat.zero_le _, heldNotReleased := fun _ => rfl }

/-- Settles O38: an idle point, a command and a call each keep the invariant. -/
theorem stepKeepsTheInvariant : Obligations.StepKeepsTheInvariant := by
  intro s t h ht
  rcases step_cases s with e | ⟨_, e⟩ | ⟨_, ⟨_, rs, i, _, e⟩ | ⟨o, rs, _, e⟩⟩
  · obtain rfl := Host.Outcome.next.inj (e.symm.trans ht)
    exact kept_inv.idlePoint h
  · cases e.symm.trans ht
  · exact kept_inv.next_exec (h.setRequests rs) (e.symm.trans ht)
  · obtain hlife | ⟨_, x, give, hx, hends⟩ := kept_inv.call (h.setRequests rs) o
    · exact hlife.inv (h.setRequests rs) (e.symm.trans ht)
    · exact hends.next (fun _ r hs => hs.giveBack r) (hx.symm.trans (e.symm.trans ht))

end Sys2Proof.Machine

/-! SUPPORT. Resets inside a command and between its operations (spec/70_reset_and_hazards.md R180, R181): what is
abandoned, and two runs beside each other, one with resets and one without. -/

namespace Sys2Proof.Machine

/-! ## A reset inside an operation -/

theorem issue_reset {α : Type} {op : State → Ran α} {s : State} (h : s.resetFalls = true) :
    issue op s = .abandoned (resetBlock (s.pass 1)) := if_pos h

/-- The state an abandoned call leaves after `n` points. -/
theorem giveBack_nothing_resetBlock {s : State} {n : Nat} {rest : List Bool} (h : s.resetLine.drop n = rest) :
    (resetBlock (s.pass n)).giveBack .nothing = resetBlock { s with resetLine := rest, returned := .nothing } := by
  subst h
  rfl

/-- A reset leaves nothing of an earlier one. -/
theorem Reached.resetBlock_eq {n : Nat} {s u : State} (h : Reached n s u) : resetBlock u = resetBlock (s.pass n) := by
  rcases h with rfl | ⟨_, rfl⟩ <;> rfl

theorem perform_abandoned {α : Type} {o : Operation} {op : State → Ran α} {give : α → Returned} {s : State}
    {rest : List Bool} (ho : perform o s = (issue op s).outcome give) (h : s.resetLine = true :: rest) :
    perform o s = .next (resetBlock { s with resetLine := rest, returned := .nothing }) := by
  have hrest : s.resetLine.drop 1 = rest := by rw [h, List.drop_succ_cons, List.drop_zero]
  rw [ho, issue_reset (resetFalls_of_resetLine h), Ran.outcome_abandoned, giveBack_nothing_resetBlock hrest]

/-- A reset inside LOOKUP or inside ENCODE. -/
theorem exec_abandonedEarly {i : Instr} {s : State} {rest : List Bool} (h : s.Ready)
    (hline : s.resetLine = true :: rest ∨ ∃ b, s.resetLine = false :: b :: true :: rest) :
    exec i s = .next (resetBlock { s with resetLine := rest, returned := .nothing }) := by
  rw [exec_eq, execute]
  rcases hline with hline | ⟨b, hline⟩
  · have hrest : s.resetLine.drop 1 = rest := by rw [hline, List.drop_succ_cons, List.drop_zero]
    rw [transact_lookupAbandoned h (resetFalls_of_resetLine hline), Ran.outcome_abandoned,
      giveBack_nothing_resetBlock hrest]
  · have hrest : s.resetLine.drop 3 = rest := by simp only [hline, List.drop_succ_cons, List.drop_zero]
    have h2 : (s.pass 2).resetFalls = true := by simp [State.resetFalls, hline]
    rcases transact_encode (ps := i.parameters) h (execute_lookup i.command) with ⟨m, rfl | rfl, hf, e⟩ | ⟨_, hf, _⟩
    · simp [State.resetFalls, hline] at hf
    · rw [e, Ran.outcome_abandoned, giveBack_nothing_resetBlock hrest]
    · cases h2.symm.trans hf

/-- A reset inside DECODE, whatever resets fell between LOOKUP and ENCODE and in the exchanges. -/
theorem exec_abandonedLate {i : Instr} {s : State} {bs : List Byte} {wa : List WriteAnswer} {ra : List ReadAnswer}
    {b2 b4 b5 b6 : Bool} {rest : List Bool} (hwf : i.wf = true) (hr : i.command.descriptor.responseCount ≠ 0)
    (h : s.Ready) (hw : s.writeAnswers = .ok :: wa) (ha : s.readAnswers = .bytes bs :: ra)
    (hline : s.resetLine = [false, b2, false, b4, b5, b6, true] ++ rest) :
    exec i s = .next (resetBlock { s.afterRead i.command.descriptor i.parameters wa ra with
      resetLine := rest, returned := .nothing }) := by
  rcases transact_encode (ps := i.parameters) h (execute_lookup i.command) with
    ⟨m, rfl | rfl, hf, _⟩ | ⟨_, _, u, hu, ⟨hc, _⟩ | ⟨_, e⟩⟩
  · simp [State.resetFalls, hline] at hf
  · simp [State.resetFalls, hline] at hf
  · exact absurd (wf_iff.mp hwf) hc
  · have hx : Reached 3 (u.afterRead i.command.descriptor i.parameters wa ra)
        (u.afterRead i.command.descriptor i.parameters wa ra).idlePoint.idlePoint.idlePoint :=
      (Reached.idlePoint.trans Reached.idlePoint).trans Reached.idlePoint
    obtain ⟨-, -, -, -, -, -, -, huw, hur, -⟩ := hu.host
    rw [exec_eq, execute, e, exchanges_eq, huw, hw, hur, ha]
    simp only [if_neg hr]
    generalize (u.afterRead i.command.descriptor i.parameters wa ra).idlePoint.idlePoint.idlePoint = v at hx ⊢
    have hvline : v.resetLine = true :: rest := by
      rw [hx.resetLine]
      show u.resetLine.drop 3 = _
      rw [hu.resetLine, hline]
      rfl
    have hpass : resetBlock (v.pass 1) = resetBlock ((s.afterRead i.command.descriptor i.parameters wa ra).pass 7) := by
      rw [(hx.trans .pass).resetBlock_eq, ← State.pass_pass _ 3 4]
      rcases hu with rfl | ⟨_, rfl⟩ <;> rfl
    have hrest : (s.afterRead i.command.descriptor i.parameters wa ra).resetLine.drop 7 = rest := by
      show s.resetLine.drop 7 = rest
      rw [hline]
      rfl
    rw [issue_reset (resetFalls_of_resetLine hvline), Ran.outcome_abandoned, hpass, giveBack_nothing_resetBlock hrest]

/-- Settles O55: an operation of the block is abandoned wherever it stands, and an idle or stuck host is left alone. -/
theorem resetAbandonsTheOperationInProgress : Obligations.ResetAbandonsTheOperationInProgress := by
  refine ⟨fun _ => rfl, fun o s rest ho hline => ?operation, fun i s rest h hline => exec_abandonedEarly h hline,
    fun i s bs wa ra b2 b4 b5 b6 rest hwf hr h hw ha hline => exec_abandonedLate hwf hr h hw ha hline,
    fun s rest hs hline => ?idle⟩
  case operation =>
    obtain ⟨v, rfl⟩ | ⟨name, rfl⟩ | ⟨n, rfl⟩ | ⟨d, ps, rfl⟩ | ⟨bs, n, rfl⟩ := ho
    all_goals exact perform_abandoned rfl hline
  case idle =>
    have hpoint : s.idlePoint = resetBlock { s with resetLine := rest } := by
      rw [State.idlePoint_reset hline, State.pass, hline]
      rfl
    rw [← hpoint]
    exact hs.elim step_stalled step_idle

/-! ## Two runs beside each other -/

namespace Ran.AsWithoutReset

variable {α β : Type} {left left' : List Bool} {x y : Ran α}

theorem outcome (h : Ran.AsWithoutReset left x y) (give : α → Returned) :
    ∃ t u, x.outcome give = .next t ∧ y.outcome give = .next u ∧ t.AsWithoutReset u := by
  cases h with
  | done v h => exact ⟨_, _, rfl, rfl, h.giveBack _⟩
  | raised e h => exact ⟨_, _, rfl, rfl, h.giveBack _⟩
  | blocked h => exact ⟨_, _, rfl, rfl, h⟩

theorem bind {k : α → State → Ran β} (h : Ran.AsWithoutReset left x y)
    (hk : ∀ v t u, t.AsWithoutReset u → u.Ready → u.Completed → t.resetLine = left → u.resetLine = [] →
      ∃ left', Ran.AsWithoutReset left' (k v t) (k v u)) :
    ∃ left', Ran.AsWithoutReset left' (x.bind k) (y.bind k) := by
  cases h with
  | done v h hready hcompleted ht hu => exact hk v _ _ h hready hcompleted ht hu
  | raised e h => exact ⟨[], .raised e h⟩
  | blocked h => exact ⟨[], .blocked h⟩

end Ran.AsWithoutReset

theorem State.AsWithoutReset.ready {t u : State} (h : t.AsWithoutReset u) (hu : u.Ready) : t.Ready := by
  obtain ⟨hstalled, hheld, hrel⟩ := hu
  exact ⟨h.stalled.trans hstalled, h.busHeld.trans hheld, h.busReleased.trans hrel⟩

/-- EXECUTE in either run. -/
theorem State.AsWithoutReset.execute {t u : State} (h : t.AsWithoutReset u) (hu : u.Ready) (hline : u.resetLine = [])
    (c : Command) (ps : List Word) (h02 : t.Spares [0, 2]) (h6 : c.descriptor.responseCount ≠ 0 → t.Spares [6]) :
    Ran.AsWithoutReset (t.resetLine.drop (if c.descriptor.responseCount = 0 then 5 else 7)) (execute c ps t)
      (execute c ps u) := by
  rw [h.eq_withBlock hline]
  exact execute_asWithoutReset c ps (h.ready hu) h.words h02 h6

/-- With no reset to come, the delay between two polls only adds to the acts. -/
theorem sleep_progress_eq {u : State} (hline : u.resetLine = []) (callback : Bool) :
    sleep pollDelay (progress callback u) = (progress callback u).emit (.sleep pollDelay) := by
  have hnil : ((progress callback u).emit (.sleep pollDelay)).resetLine = [] := by cases callback <;> exact hline
  rw [sleep, State.idlePoint_quiet (State.quiet_of_nil hnil 1), State.pass_of_nil hnil]

/-- The delay between two polls, with the callback before it. -/
theorem State.AsWithoutReset.betweenPolls {t u : State} (h : t.AsWithoutReset u) (hc : u.Completed)
    (hline : u.resetLine = []) (callback : Bool) :
    (sleep pollDelay (progress callback t)).AsWithoutReset (sleep pollDelay (progress callback u)) := by
  have hprogress : (progress callback t).AsWithoutReset (progress callback u) := by
    cases callback
    · exact h
    · exact h.emit .callback
  rw [sleep_progress_eq hline]
  exact (hprogress.emit _).reached Reached.idlePoint (by cases callback <;> exact hc)

theorem resetLine_betweenPolls (callback : Bool) (t : State) :
    (sleep pollDelay (progress callback t)).resetLine = t.resetLine.drop 1 := by
  cases callback <;> simp [sleep, progress]

theorem ready_betweenPolls {u : State} (hu : u.Ready) (callback : Bool) :
    (sleep pollDelay (progress callback u)).Ready := by
  have hemit : ((progress callback u).emit (.sleep pollDelay)).Ready := by cases callback <;> exact hu
  exact Reached.idlePoint.ready hemit

theorem completed_betweenPolls {u : State} (hc : u.Completed) (hline : u.resetLine = []) (callback : Bool) :
    (sleep pollDelay (progress callback u)).Completed := by
  rw [sleep_progress_eq hline]
  cases callback <;> exact hc

/-- No reset falls inside an operation of the block in any of the next `n` polls. -/
def State.SparesPolls (t : State) (n : Nat) : Prop := ∀ k < n, t.Spares [8 * k, 2 + 8 * k, 6 + 8 * k]

theorem resetFalls_pass_of_drop {t x : State} {d : Nat} (h : x.resetLine = t.resetLine.drop d) (m : Nat) :
    (x.pass m).resetFalls = (t.pass (d + m)).resetFalls := by
  simp only [State.resetFalls, State.pass_resetLine, h, List.drop_drop]

theorem State.SparesPolls.tail {t x : State} {n : Nat} (h : t.SparesPolls (n + 1))
    (hx : x.resetLine = t.resetLine.drop 8) : x.SparesPolls n := by
  intro k hk m hm
  rw [resetFalls_pass_of_drop hx]
  refine h (k + 1) (by omega) (8 + m) ?_
  simp only [List.mem_cons, List.not_mem_nil, or_false] at hm ⊢
  omega

/-- The warm-up loop in either run: the same polls, and the same end. -/
theorem warmupLoop_asWithoutReset (callback : Bool) (n : Nat) {t u : State} (h : t.AsWithoutReset u) (hu : u.Ready)
    (hc : u.Completed) (hline : u.resetLine = []) (hspares : t.SparesPolls n) :
    ∃ left, Ran.AsWithoutReset left (warmupLoop callback n t) (warmupLoop callback n u) := by
  induction n generalizing t u with
  | zero => exact ⟨_, .done () h hu hc rfl hline⟩
  | succ n ih =>
    have hfirst : t.Spares [0, 2, 6] := hspares 0 (Nat.succ_pos n)
    have hrun := h.execute hu hline .measureAirQuality [] (fun m hm => hfirst m (by simp at hm ⊢; omega))
      (fun _ m hm => hfirst m (by simp at hm ⊢; omega))
    simp only [warmupLoop, getAirQuality_eq_bind, Ran.bind_assoc, Ran.bind_done]
    refine hrun.bind fun ws t' u' h' hu' hc' hleft hline' => ?_
    have hset : (t'.setPolls (t'.polls + 1)).AsWithoutReset (u'.setPolls (u'.polls + 1)) := by
      rw [h'.polls]
      exact h'.setPolls _
    have hend : ∃ left, Ran.AsWithoutReset left (.done () (t'.setPolls (t'.polls + 1)))
        (.done () (u'.setPolls (u'.polls + 1))) := ⟨_, .done () hset hu' hc' rfl hline'⟩
    by_cases hreading : pairOf ws ≠ warmupReading
    · simpa only [if_pos hreading] using hend
    simp only [if_neg hreading]
    rw [show (t'.setPolls (t'.polls + 1)).polls = (u'.setPolls (u'.polls + 1)).polls from hset.polls]
    by_cases hcap : (u'.setPolls (u'.polls + 1)).polls = warmupCap
    · simpa only [if_pos hcap] using hend
    simp only [if_neg hcap]
    have hready : (u'.setPolls (u'.polls + 1)).Ready := hu'
    have hcompleted : (u'.setPolls (u'.polls + 1)).Completed := hc'
    have hline2 : (u'.setPolls (u'.polls + 1)).resetLine = [] := hline'
    refine ih (hset.betweenPolls hcompleted hline2 callback) (ready_betweenPolls hready callback)
      (completed_betweenPolls hcompleted hline2 callback) ?_ (hspares.tail ?_)
    · rw [resetLine_betweenPolls, hline2, List.drop_nil]
    · rw [resetLine_betweenPolls, State.setPolls_resetLine, hleft, List.drop_drop]
      rfl

theorem startMeasurement_asWithoutReset (callback : Bool) {s : State} (h : s.Ready) (h02 : s.Spares [0, 2])
    (hpolls : ∀ k, k < 20 → s.Spares [5 + 8 * k, 7 + 8 * k, 11 + 8 * k]) :
    ∃ left, Ran.AsWithoutReset left (startMeasurement callback s)
      (startMeasurement callback { s with resetLine := [] }) := by
  have hrun := execute_asWithoutReset (b := s) .initAirQuality [] h (.inl rfl) h02 (fun hr => absurd rfl hr)
  rw [State.withBlock_self] at hrun
  refine hrun.bind fun _ t u htu hu hc hleft hline => ?_
  refine warmupLoop_asWithoutReset callback warmupCap (htu.setPolls 0) hu hc hline fun k hk m hm => ?_
  rw [resetFalls_pass_of_drop (t := s) (x := t.setPolls 0) (d := 5) hleft]
  refine hpolls k hk (5 + m) ?_
  simp only [List.mem_cons, List.not_mem_nil, or_false] at hm ⊢
  omega

/-- A command in either run, whatever is made of its words. -/
theorem execute_outcome_asWithoutReset (c : Command) (ps : List Word) (give : List Word → Returned) {s : State}
    (h : s.Ready) (h02 : s.Spares [0, 2]) (h6 : c.descriptor.responseCount ≠ 0 → s.Spares [6]) :
    ∃ t u, (execute c ps s).outcome give = .next t ∧
      (execute c ps { s with resetLine := [] }).outcome give = .next u ∧ t.AsWithoutReset u := by
  rw [← State.withBlock_self s]
  exact (execute_asWithoutReset (b := s) c ps h (.inl rfl) h02 h6).outcome give

/-- Settles O56: EXECUTE ends in the same way in either run, a derived operation but start_measurement is its command,
and the warm-up loop is a run of commands. -/
theorem resetBetweenOperationsChangesNoResult : Obligations.ResetBetweenOperationsChangesNoResult := by
  refine ⟨fun i s h h02 h6 => ?command, fun o i s hi ho h h02 h6 => ?derived, fun callback s h h02 hpolls => ?warmup⟩
  case command =>
    rw [exec_eq, exec_eq]
    exact execute_outcome_asWithoutReset _ _ _ h h02 h6
  case derived =>
    rw [perform_derived hi ho, perform_derived (s := { s with resetLine := [] }) hi ho]
    exact execute_outcome_asWithoutReset _ _ _ h h02 h6
  case warmup =>
    obtain ⟨_, hrun⟩ := startMeasurement_asWithoutReset callback h h02 hpolls
    exact hrun.outcome fun _ => .unit

end Sys2Proof.Machine
